-- ==== Sys2Proof/Word.lean ====
section
/-! DEFINITION. Word.lean: the widths of the machine's values (00_scope.md R5, R6) and nothing else. -/

namespace Sys2Proof

/-- A byte: a memory cell, a general register, a timer (00_scope.md R5, `XLEN`, `TIMER_WIDTH`). -/
abbrev Byte := BitVec 8

/-- A 16-bit value: an instruction word, `I`, `pc`, a stack cell (00_scope.md R5). -/
abbrev Word := BitVec 16

/-- A nibble of the instruction word: a register number, a key number, a sprite height
(30_encoding.md R91, R93: all 16 values are legal). -/
abbrev Nibble := BitVec 4

/-- The 12-bit immediate `NNN` (30_encoding.md R91). -/
abbrev Addr12 := BitVec 12

end Sys2Proof
end

