-- ==== Sys2Proof/Syntax.lean ====
section
/-! DEFINITION. Syntax.lean: the 35 instructions (30_encoding.md R100), one constructor per row of the opcode table, in
its order. Operand fields as 30_encoding.md R91 names them. -/

namespace Sys2Proof

/-- An instruction. `SE Vx,Vy` and `SNE Vx,Vy` carry the low nibble `N` that their meaning ignores (30_encoding.md R99),
`SHR` and `SHL` the `Y` that matters only when `SHIFT_SRC` is `y`: the instruction keeps every bit of its word. -/
inductive Instr where
  /-- `0NNN` `SYS NNN`. -/
  | sys (nnn : Addr12)
  /-- `00E0` `CLS`. -/
  | cls
  /-- `00EE` `RET`. -/
  | ret
  /-- `1NNN` `JP NNN`. -/
  | jp (nnn : Addr12)
  /-- `2NNN` `CALL NNN`. -/
  | call (nnn : Addr12)
  /-- `3XNN` `SE Vx,NN`. -/
  | seImm (x : Nibble) (nn : Byte)
  /-- `4XNN` `SNE Vx,NN`. -/
  | sneImm (x : Nibble) (nn : Byte)
  /-- `5XYN` `SE Vx,Vy`, canonically with `N = 0`. -/
  | seReg (x y n : Nibble)
  /-- `6XNN` `LD Vx,NN`. -/
  | ldImm (x : Nibble) (nn : Byte)
  /-- `7XNN` `ADD Vx,NN`. -/
  | addImm (x : Nibble) (nn : Byte)
  /-- `8XY0` `LD Vx,Vy`. -/
  | ldReg (x y : Nibble)
  /-- `8XY1` `OR Vx,Vy`. -/
  | orReg (x y : Nibble)
  /-- `8XY2` `AND Vx,Vy`. -/
  | andReg (x y : Nibble)
  /-- `8XY3` `XOR Vx,Vy`. -/
  | xorReg (x y : Nibble)
  /-- `8XY4` `ADD Vx,Vy`. -/
  | addReg (x y : Nibble)
  /-- `8XY5` `SUB Vx,Vy`. -/
  | subReg (x y : Nibble)
  /-- `8XY6` `SHR Vx,Vy`. -/
  | shr (x y : Nibble)
  /-- `8XY7` `SUBN Vx,Vy`. -/
  | subn (x y : Nibble)
  /-- `8XYE` `SHL Vx,Vy`. -/
  | shl (x y : Nibble)
  /-- `9XYN` `SNE Vx,Vy`, canonically with `N = 0`. -/
  | sneReg (x y n : Nibble)
  /-- `ANNN` `LD I,NNN`. -/
  | ldI (nnn : Addr12)
  /-- `BNNN` `JP V0,NNN`. -/
  | jpV0 (nnn : Addr12)
  /-- `CXNN` `RND Vx,NN`. -/
  | rnd (x : Nibble) (nn : Byte)
  /-- `DXYN` `DRW Vx,Vy,N`. -/
  | drw (x y n : Nibble)
  /-- `EX9E` `SKP Vx`. -/
  | skp (x : Nibble)
  /-- `EXA1` `SKNP Vx`. -/
  | sknp (x : Nibble)
  /-- `FX07` `LD Vx,DT`. -/
  | ldVxDt (x : Nibble)
  /-- `FX0A` `LD Vx,K`. -/
  | ldVxK (x : Nibble)
  /-- `FX15` `LD DT,Vx`. -/
  | ldDtVx (x : Nibble)
  /-- `FX18` `LD ST,Vx`. -/
  | ldStVx (x : Nibble)
  /-- `FX1E` `ADD I,Vx`. -/
  | addI (x : Nibble)
  /-- `FX29` `LD F,Vx`. -/
  | ldF (x : Nibble)
  /-- `FX33` `LD B,Vx`. -/
  | ldB (x : Nibble)
  /-- `FX55` `LD [I],Vx`. -/
  | dump (x : Nibble)
  /-- `FX65` `LD Vx,[I]`. -/
  | load (x : Nibble)
  deriving DecidableEq, Repr

end Sys2Proof
end

