-- ==== Sys2Proof/WellFormed.lean ====
section
/-! DEFINITION. WellFormed.lean: which terms of Instr are instructions of the machine, and which of those an assembler
emits. -/

namespace Sys2Proof

/-- An instruction that some word encodes. Every operand value is legal (30_encoding.md R93), except that the two words
0x00E0 and 0x00EE are taken by `CLS` and `RET`, so `SYS 0x0E0` and `SYS 0x0EE` do not exist (41_control_flow.md R141). -/
def Instr.wellFormed : Instr → Bool
  | .sys nnn => nnn != 0x0E0#12 && nnn != 0x0EE#12
  | .cls => true
  | .ret => true
  | .jp _ => true
  | .call _ => true
  | .seImm _ _ => true
  | .sneImm _ _ => true
  | .seReg _ _ _ => true
  | .ldImm _ _ => true
  | .addImm _ _ => true
  | .ldReg _ _ => true
  | .orReg _ _ => true
  | .andReg _ _ => true
  | .xorReg _ _ => true
  | .addReg _ _ => true
  | .subReg _ _ => true
  | .shr _ _ => true
  | .subn _ _ => true
  | .shl _ _ => true
  | .sneReg _ _ _ => true
  | .ldI _ => true
  | .jpV0 _ => true
  | .rnd _ _ => true
  | .drw _ _ _ => true
  | .skp _ => true
  | .sknp _ => true
  | .ldVxDt _ => true
  | .ldVxK _ => true
  | .ldDtVx _ => true
  | .ldStVx _ => true
  | .addI _ => true
  | .ldF _ => true
  | .ldB _ => true
  | .dump _ => true
  | .load _ => true

/-- The forms an assembler emits: of the words `5XYN` and `9XYN` only those with `N = 0` (30_encoding.md R99, R104). -/
def Instr.canonical (i : Instr) : Bool :=
  i.wellFormed &&
    match i with
    | .seReg _ _ n => n == 0#4
    | .sneReg _ _ n => n == 0#4
    | _ => true

end Sys2Proof
end

