-- ==== Sys2Proof/Decode.lean ====
section
/-! DEFINITION. Decode.lean: the decoder (30_encoding.md R94 to R99), total on any word and any bytes, the encoder written
from the opcode map (R92, R100), and the assembler spelling of an instruction (R104). -/

namespace Sys2Proof

/-! ### Fields of the instruction word (30_encoding.md R91) -/

/-- `OP = w[15:12]`, the family nibble. -/
def fOp (w : Word) : Nibble := w.extractLsb' 12 4

/-- `X = w[11:8]`. -/
def fX (w : Word) : Nibble := w.extractLsb' 8 4

/-- `Y = w[7:4]`. -/
def fY (w : Word) : Nibble := w.extractLsb' 4 4

/-- `N = w[3:0]`. -/
def fN (w : Word) : Nibble := w.extractLsb' 0 4

/-- `NN = w[7:0]`. -/
def fNN (w : Word) : Byte := w.extractLsb' 0 8

/-- `NNN = w[11:0]`. -/
def fNNN (w : Word) : Addr12 := w.extractLsb' 0 12

/-! ### Decoding -/

/-- Why bytes are no instruction. -/
inductive DecodeError where
  /-- The word matches no known instruction pattern (30_encoding.md R101): the cycle that fetched it raises
  `InvalidOpcode` (60_exceptions.md R243). -/
  | invalidOpcode (w : Word)
  /-- Fewer than the two bytes of an instruction (30_encoding.md R90). No fetch meets it: a fetch reads two bytes. -/
  | truncated
  deriving DecidableEq, Repr

/-- Family 0 (30_encoding.md R95): two literal codes, every other word a jump. -/
def decode0 (w : Word) : Except DecodeError Instr :=
  if w = 0x00E0#16 then .ok .cls
  else if w = 0x00EE#16 then .ok .ret
  else .ok (.sys (fNNN w))

/-- Family 8 (30_encoding.md R96): the low nibble. -/
def decode8 (w : Word) : Except DecodeError Instr :=
  match (fN w).toNat with
  | 0x0 => .ok (.ldReg (fX w) (fY w))
  | 0x1 => .ok (.orReg (fX w) (fY w))
  | 0x2 => .ok (.andReg (fX w) (fY w))
  | 0x3 => .ok (.xorReg (fX w) (fY w))
  | 0x4 => .ok (.addReg (fX w) (fY w))
  | 0x5 => .ok (.subReg (fX w) (fY w))
  | 0x6 => .ok (.shr (fX w) (fY w))
  | 0x7 => .ok (.subn (fX w) (fY w))
  | 0xE => .ok (.shl (fX w) (fY w))
  | _ => .error (.invalidOpcode w)

/-- Family E (30_encoding.md R97): the low byte. -/
def decodeE (w : Word) : Except DecodeError Instr :=
  match (fNN w).toNat with
  | 0x9E => .ok (.skp (fX w))
  | 0xA1 => .ok (.sknp (fX w))
  | _ => .error (.invalidOpcode w)

/-- Family F (30_encoding.md R98): the low byte. -/
def decodeF (w : Word) : Except DecodeError Instr :=
  match (fNN w).toNat with
  | 0x07 => .ok (.ldVxDt (fX w))
  | 0x0A => .ok (.ldVxK (fX w))
  | 0x15 => .ok (.ldDtVx (fX w))
  | 0x18 => .ok (.ldStVx (fX w))
  | 0x1E => .ok (.addI (fX w))
  | 0x29 => .ok (.ldF (fX w))
  | 0x33 => .ok (.ldB (fX w))
  | 0x55 => .ok (.dump (fX w))
  | 0x65 => .ok (.load (fX w))
  | _ => .error (.invalidOpcode w)

/-- The decoder (30_encoding.md R94): the top nibble selects one of 16 families, four of which need a second
discriminant. Families 5 and 9 ignore `N` (R99). -/
def decode (w : Word) : Except DecodeError Instr :=
  match (fOp w).toNat with
  | 0x0 => decode0 w
  | 0x1 => .ok (.jp (fNNN w))
  | 0x2 => .ok (.call (fNNN w))
  | 0x3 => .ok (.seImm (fX w) (fNN w))
  | 0x4 => .ok (.sneImm (fX w) (fNN w))
  | 0x5 => .ok (.seReg (fX w) (fY w) (fN w))
  | 0x6 => .ok (.ldImm (fX w) (fNN w))
  | 0x7 => .ok (.addImm (fX w) (fNN w))
  | 0x8 => decode8 w
  | 0x9 => .ok (.sneReg (fX w) (fY w) (fN w))
  | 0xA => .ok (.ldI (fNNN w))
  | 0xB => .ok (.jpV0 (fNNN w))
  | 0xC => .ok (.rnd (fX w) (fNN w))
  | 0xD => .ok (.drw (fX w) (fY w) (fN w))
  | 0xE => decodeE w
  | 0xF => decodeF w
  | _ => .error (.invalidOpcode w)

/-- The word of two consecutive bytes, the first in the high half (20_memory.md R67). -/
def wordOfBytes (hi lo : Byte) : Word := hi ++ lo

/-- The first byte of a word as memory holds it (20_memory.md R67). -/
def hiByte (w : Word) : Byte := w.extractLsb' 8 8

/-- The second byte of a word as memory holds it (20_memory.md R67). -/
def loByte (w : Word) : Byte := w.extractLsb' 0 8

/-- The decoder on bytes: it consumes exactly two (30_encoding.md R90) and returns the rest. -/
def decodeBytes : List Byte → Except DecodeError (Instr × List Byte)
  | hi :: lo :: rest =>
    match decode (wordOfBytes hi lo) with
    | .ok i => .ok (i, rest)
    | .error e => .error e
  | _ => .error .truncated

/-- The word of a table row's bits, the bits above `nbits` zero. -/
def tableWord (nbits w : Nat) : Word := BitVec.ofNat 16 (w % 2 ^ min nbits 16)

/-- The instruction the decoder reads from an instruction whose bits are `w`, numbered as the opcode table numbers them;
none where the decoder refuses. -/
def decodeTableWord (nbits w : Nat) : Option Instr :=
  match decodeBytes [hiByte (tableWord nbits w), loByte (tableWord nbits w)] with
  | .ok (i, _) => some i
  | .error _ => none

/-! ### Encoding: the formats of 30_encoding.md R92 and the opcode map of R100 -/

/-- Format `NNN`. -/
def fmtNNN (op : Nibble) (nnn : Addr12) : Word := op ++ nnn

/-- Formats `XNN` and `XKK`. -/
def fmtXNN (op x : Nibble) (nn : Byte) : Word := op ++ x ++ nn

/-- Format `XYN`. -/
def fmtXYN (op x y n : Nibble) : Word := op ++ x ++ y ++ n

/-- The word of an instruction (30_encoding.md R100). -/
def encode : Instr → Word
  | .sys nnn => fmtNNN 0x0#4 nnn
  | .cls => 0x00E0#16
  | .ret => 0x00EE#16
  | .jp nnn => fmtNNN 0x1#4 nnn
  | .call nnn => fmtNNN 0x2#4 nnn
  | .seImm x nn => fmtXNN 0x3#4 x nn
  | .sneImm x nn => fmtXNN 0x4#4 x nn
  | .seReg x y n => fmtXYN 0x5#4 x y n
  | .ldImm x nn => fmtXNN 0x6#4 x nn
  | .addImm x nn => fmtXNN 0x7#4 x nn
  | .ldReg x y => fmtXYN 0x8#4 x y 0x0#4
  | .orReg x y => fmtXYN 0x8#4 x y 0x1#4
  | .andReg x y => fmtXYN 0x8#4 x y 0x2#4
  | .xorReg x y => fmtXYN 0x8#4 x y 0x3#4
  | .addReg x y => fmtXYN 0x8#4 x y 0x4#4
  | .subReg x y => fmtXYN 0x8#4 x y 0x5#4
  | .shr x y => fmtXYN 0x8#4 x y 0x6#4
  | .subn x y => fmtXYN 0x8#4 x y 0x7#4
  | .shl x y => fmtXYN 0x8#4 x y 0xE#4
  | .sneReg x y n => fmtXYN 0x9#4 x y n
  | .ldI nnn => fmtNNN 0xA#4 nnn
  | .jpV0 nnn => fmtNNN 0xB#4 nnn
  | .rnd x nn => fmtXNN 0xC#4 x nn
  | .drw x y n => fmtXYN 0xD#4 x y n
  | .skp x => fmtXNN 0xE#4 x 0x9E#8
  | .sknp x => fmtXNN 0xE#4 x 0xA1#8
  | .ldVxDt x => fmtXNN 0xF#4 x 0x07#8
  | .ldVxK x => fmtXNN 0xF#4 x 0x0A#8
  | .ldDtVx x => fmtXNN 0xF#4 x 0x15#8
  | .ldStVx x => fmtXNN 0xF#4 x 0x18#8
  | .addI x => fmtXNN 0xF#4 x 0x1E#8
  | .ldF x => fmtXNN 0xF#4 x 0x29#8
  | .ldB x => fmtXNN 0xF#4 x 0x33#8
  | .dump x => fmtXNN 0xF#4 x 0x55#8
  | .load x => fmtXNN 0xF#4 x 0x65#8

/-- The instruction's two bytes as memory holds them. -/
def encodeBytes (i : Instr) : List Byte := [hiByte (encode i), loByte (encode i)]

/-- The `mask` and `match` columns of the instruction's row of the opcode map (30_encoding.md R100). -/
def Instr.row : Instr → Word × Word
  | .sys _ => (0xF000, 0x0000)
  | .cls => (0xFFFF, 0x00E0)
  | .ret => (0xFFFF, 0x00EE)
  | .jp _ => (0xF000, 0x1000)
  | .call _ => (0xF000, 0x2000)
  | .seImm _ _ => (0xF000, 0x3000)
  | .sneImm _ _ => (0xF000, 0x4000)
  | .seReg _ _ _ => (0xF000, 0x5000)
  | .ldImm _ _ => (0xF000, 0x6000)
  | .addImm _ _ => (0xF000, 0x7000)
  | .ldReg _ _ => (0xF00F, 0x8000)
  | .orReg _ _ => (0xF00F, 0x8001)
  | .andReg _ _ => (0xF00F, 0x8002)
  | .xorReg _ _ => (0xF00F, 0x8003)
  | .addReg _ _ => (0xF00F, 0x8004)
  | .subReg _ _ => (0xF00F, 0x8005)
  | .shr _ _ => (0xF00F, 0x8006)
  | .subn _ _ => (0xF00F, 0x8007)
  | .shl _ _ => (0xF00F, 0x800E)
  | .sneReg _ _ _ => (0xF000, 0x9000)
  | .ldI _ => (0xF000, 0xA000)
  | .jpV0 _ => (0xF000, 0xB000)
  | .rnd _ _ => (0xF000, 0xC000)
  | .drw _ _ _ => (0xF000, 0xD000)
  | .skp _ => (0xF0FF, 0xE09E)
  | .sknp _ => (0xF0FF, 0xE0A1)
  | .ldVxDt _ => (0xF0FF, 0xF007)
  | .ldVxK _ => (0xF0FF, 0xF00A)
  | .ldDtVx _ => (0xF0FF, 0xF015)
  | .ldStVx _ => (0xF0FF, 0xF018)
  | .addI _ => (0xF0FF, 0xF01E)
  | .ldF _ => (0xF0FF, 0xF029)
  | .ldB _ => (0xF0FF, 0xF033)
  | .dump _ => (0xF0FF, 0xF055)
  | .load _ => (0xF0FF, 0xF065)

/-! ### Assembler spelling (30_encoding.md R104) -/

/-- A number in hexadecimal with the prefix `0x`. -/
def asmNum (n : Nat) : String := "0x" ++ (String.ofList (Nat.toDigits 16 n)).toUpper

/-- A register name: `V` and one hexadecimal digit. -/
def asmReg (r : Nibble) : String := "V" ++ (String.ofList (Nat.toDigits 16 r.toNat)).toUpper

/-- The instruction as one line of assembler text (30_encoding.md R104). `SHR` and `SHL` are written with both operands. -/
def Instr.asm : Instr → String
  | .sys nnn => "SYS " ++ asmNum nnn.toNat
  | .cls => "CLS"
  | .ret => "RET"
  | .jp nnn => "JP " ++ asmNum nnn.toNat
  | .call nnn => "CALL " ++ asmNum nnn.toNat
  | .seImm x nn => "SE " ++ asmReg x ++ "," ++ asmNum nn.toNat
  | .sneImm x nn => "SNE " ++ asmReg x ++ "," ++ asmNum nn.toNat
  | .seReg x y _ => "SE " ++ asmReg x ++ "," ++ asmReg y
  | .ldImm x nn => "LD " ++ asmReg x ++ "," ++ asmNum nn.toNat
  | .addImm x nn => "ADD " ++ asmReg x ++ "," ++ asmNum nn.toNat
  | .ldReg x y => "LD " ++ asmReg x ++ "," ++ asmReg y
  | .orReg x y => "OR " ++ asmReg x ++ "," ++ asmReg y
  | .andReg x y => "AND " ++ asmReg x ++ "," ++ asmReg y
  | .xorReg x y => "XOR " ++ asmReg x ++ "," ++ asmReg y
  | .addReg x y => "ADD " ++ asmReg x ++ "," ++ asmReg y
  | .subReg x y => "SUB " ++ asmReg x ++ "," ++ asmReg y
  | .shr x y => "SHR " ++ asmReg x ++ "," ++ asmReg y
  | .subn x y => "SUBN " ++ asmReg x ++ "," ++ asmReg y
  | .shl x y => "SHL " ++ asmReg x ++ "," ++ asmReg y
  | .sneReg x y _ => "SNE " ++ asmReg x ++ "," ++ asmReg y
  | .ldI nnn => "LD I," ++ asmNum nnn.toNat
  | .jpV0 nnn => "JP V0," ++ asmNum nnn.toNat
  | .rnd x nn => "RND " ++ asmReg x ++ "," ++ asmNum nn.toNat
  | .drw x y n => "DRW " ++ asmReg x ++ "," ++ asmReg y ++ "," ++ asmNum n.toNat
  | .skp x => "SKP " ++ asmReg x
  | .sknp x => "SKNP " ++ asmReg x
  | .ldVxDt x => "LD " ++ asmReg x ++ ",DT"
  | .ldVxK x => "LD " ++ asmReg x ++ ",K"
  | .ldDtVx x => "LD DT," ++ asmReg x
  | .ldStVx x => "LD ST," ++ asmReg x
  | .addI x => "ADD I," ++ asmReg x
  | .ldF x => "LD F," ++ asmReg x
  | .ldB x => "LD B," ++ asmReg x
  | .dump x => "LD [I]," ++ asmReg x
  | .load x => "LD " ++ asmReg x ++ ",[I]"

end Sys2Proof
end

