-- ==== Sys2Proof/Config.lean ====
section
/-! DEFINITION. Config.lean: the implementation parameters (00_scope.md R5): the fixed sizes, the two parameters the
spec leaves OPEN for the model to take as arguments, and the free value behind the random input. -/

namespace Sys2Proof

namespace Config

/-- `MEM_SIZE` (00_scope.md R5): addresses 0x000 to 0xFFF. -/
abbrev memSize : Nat := 4096

/-- `FONT_BASE` (00_scope.md R5). -/
abbrev fontBase : Nat := 0x050

/-- The size of the font table: `FONT_GLYPHS` times `FONT_GLYPH_BYTES` (00_scope.md R5). -/
abbrev fontSize : Nat := 80

/-- `PROG_BASE`, also `RESET_PC` (00_scope.md R5). -/
abbrev progBase : Nat := 0x200

/-- `PROG_MAX` (00_scope.md R5): the longest program a reset accepts. -/
abbrev progMax : Nat := 3584

/-- `STACK_DEPTH` (00_scope.md R5). -/
abbrev stackDepth : Nat := 16

/-- `DISP_W` (00_scope.md R5). -/
abbrev dispW : Nat := 64

/-- `DISP_H` (00_scope.md R5). -/
abbrev dispH : Nat := 32

/-- `SPRITE_W` (00_scope.md R5). -/
abbrev spriteW : Nat := 8

/-- The random byte of the `n`-th free draw (40_cycle.md R124, decision D17: "any of the 256 values, under no law").
It has no body, so no proof can learn a value of it. Free value: log 4. -/
opaque freeRnd : Nat → Byte

end Config

/-- The parameter `SHIFT_SRC` (42_arith_logic.md R170, decision D9): which register `SHR` and `SHL` read. -/
inductive ShiftSrc where
  /-- Shift `x[X]` in place; `Y` is ignored. -/
  | x
  /-- Shift `x[Y]` into `x[X]`. -/
  | y
  deriving DecidableEq, Repr

/-- The parameter `FONT_ROM[0..79]` (20_memory.md R62, decision D16). -/
abbrev FontRom := Vector Byte 80

/-- The parameters marked OPEN in 00_scope.md R5 that the model takes as an argument. They stand in State as one field
that no operation writes, so that a claim about every state is a claim about every choice of them (log 5). -/
structure Params where
  shiftSrc : ShiftSrc
  fontRom : FontRom
  deriving DecidableEq, Repr

end Sys2Proof
end

