-- ==== Sys2Proof/Machine/Font.lean ====
section
/-! DEFINITION. Machine/Font.lean: the default of the parameter `FONT_ROM` (20_memory.md R62, decision D16; the bytes are
general knowledge in the spec itself, 93_implementation_defined.md G3; log 5). -/

namespace Sys2Proof.Machine

/-- Glyphs 0 to 3 of the conventional font (20_memory.md R62). -/
def font0 : Vector Byte 20 :=
  #v[0xF0, 0x90, 0x90, 0x90, 0xF0,
     0x20, 0x60, 0x20, 0x20, 0x70,
     0xF0, 0x10, 0xF0, 0x80, 0xF0,
     0xF0, 0x10, 0xF0, 0x10, 0xF0]

/-- Glyphs 4 to 7. -/
def font4 : Vector Byte 20 :=
  #v[0x90, 0x90, 0xF0, 0x10, 0x10,
     0xF0, 0x80, 0xF0, 0x10, 0xF0,
     0xF0, 0x80, 0xF0, 0x90, 0xF0,
     0xF0, 0x10, 0x20, 0x40, 0x40]

/-- Glyphs 8 to B. -/
def font8 : Vector Byte 20 :=
  #v[0xF0, 0x90, 0xF0, 0x90, 0xF0,
     0xF0, 0x90, 0xF0, 0x10, 0xF0,
     0xF0, 0x90, 0xF0, 0x90, 0x90,
     0xE0, 0x90, 0xE0, 0x90, 0xE0]

/-- Glyphs C to F. -/
def fontC : Vector Byte 20 :=
  #v[0xF0, 0x80, 0x80, 0x80, 0xF0,
     0xE0, 0x90, 0x90, 0x90, 0xE0,
     0xF0, 0x80, 0xF0, 0x80, 0xF0,
     0xF0, 0x80, 0xF0, 0x80, 0x80]

/-- The conventional hexadecimal font, the default of `FONT_ROM` (20_memory.md R62). -/
def defaultFont : FontRom := font0 ++ font4 ++ font8 ++ fontC

/-- The defaults of the OPEN parameters (00_scope.md R5): `SHIFT_SRC = X`, the conventional font. -/
def defaultParams : Params := { shiftSrc := .x, fontRom := defaultFont }

end Sys2Proof.Machine
end

