-- ==== Sys2Proof/Machine/State.lean ====
section
/-! DEFINITION. Machine/State.lean: the complete state of the CORE (10_state.md R20), the parameters beside it, the
driver's pending inputs as plain data, the reasons a step can stop, and the state after reset. -/

namespace Sys2Proof.Machine

/-- Memory: address and byte pairs, addresses strictly rising, no entry equal to what an unlisted address reads as
(log 8). -/
abbrev Memory := List Host.Cell

/-- The display buffer as its 32 rows of 64 one-bit pixels: `fb[y*64 + x]` is bit `x` of row `y` (10_state.md R32;
log 7). -/
abbrev Display := Vector (BitVec 64) 32

/-- The faults of 60_exceptions.md R240, cause and sub-cause together. Their codes are in Ops.lean. -/
inductive Trap where
  /-- The word matches no instruction. -/
  | invalidOpcode
  /-- `pc > 0xFFE` at the fetch. -/
  | fetch
  /-- A read address above 0xFFF. -/
  | dataRead
  /-- A write address above 0xFFF. -/
  | dataWrite
  /-- `CALL` with `sp = 16`. -/
  | stackOverflow
  /-- `RET` with `sp = 0`. -/
  | stackUnderflow
  /-- A program longer than 3584 bytes. -/
  | loadTooLong
  deriving DecidableEq, Repr

/-- The operations the driver may invoke (40_cycle.md R121). `Cycle`'s random byte is not here but in `State.rndIn`,
since only `RND` reads it (40_cycle.md R124; log 4). A key number is 0 to 15 by its type (93_implementation_defined.md
U17). -/
inductive DriverOp where
  /-- `Reset(program)`. -/
  | reset (program : List Byte)
  /-- `Cycle(rnd)`. -/
  | cycle
  /-- `TimerTick()`. -/
  | timerTick
  /-- `KeyPress(k)`. -/
  | keyPress (k : Nibble)
  /-- `KeyRelease(k)`. -/
  | keyRelease (k : Nibble)
  /-- Reading the outputs (40_cycle.md R130). -/
  | readOutputs
  deriving DecidableEq, Repr

/-- The state of the machine. The first seventeen fields are the inventory of 10_state.md R20, under its names. -/
structure State where
  /-- `mem[0..4095]` (20_memory.md R60). -/
  mem : Memory
  /-- `x[0..15]`, V0 to VF (10_state.md R21). -/
  x : Vector Byte 16
  /-- The index register (10_state.md R24). -/
  I : Word
  /-- The program counter (10_state.md R25). -/
  pc : Word
  /-- The return stack (10_state.md R29). -/
  stack : Vector Word 16
  /-- The stack pointer, 0 to 16 (10_state.md R29, R37). -/
  sp : Fin 17
  /-- The delay timer (10_state.md R31). -/
  DT : Byte
  /-- The sound timer (10_state.md R31). -/
  ST : Byte
  /-- The display buffer (10_state.md R32). -/
  fb : Display
  /-- The key state (10_state.md R33). -/
  key : Vector Bool 16
  /-- The ignore-keypress latch, one for the keypad (10_state.md R33, decision D7). -/
  latch : Bool
  /-- Waiting-for-key (10_state.md R34). -/
  wait : Bool
  /-- "Did this cycle draw" (10_state.md R35). -/
  drew : Bool
  /-- The fault cause code (10_state.md R36, 60_exceptions.md R240). -/
  fault : BitVec 2
  /-- The fault sub-cause (60_exceptions.md R240). -/
  faultDetail : BitVec 3
  /-- The address the faulting instruction was fetched from (10_state.md R36). -/
  faultPc : Word
  /-- The faulting instruction word (10_state.md R36). -/
  faultWord : Word
  /-- The OPEN parameters (00_scope.md R5; log 5). No operation writes them. -/
  params : Params
  /-- MODEL'S OWN: the random bytes the driver has supplied and no `RND` has read yet (40_cycle.md R124; log 4). -/
  rndIn : List Byte
  /-- MODEL'S OWN: how many free random bytes have been drawn; indexes `Config.freeRnd` (log 4). -/
  draws : Nat
  /-- MODEL'S OWN: the operations the driver has issued and the machine has not performed, oldest first; when there is
  none, the next operation is a `Cycle` (40_cycle.md R122; log 3). -/
  driver : List DriverOp
  deriving DecidableEq, Repr

/-- The reasons the machine stops with a fault: none. Every fault of the spec is a state the machine goes on from
(60_exceptions.md R241: the fault registers are written and the CORE is halted, while ticks, key events and reset keep
their effect), so nobody raises a stop (log 2). -/
inductive Fault : Type where
  deriving DecidableEq, Repr

/-- The reasons an instruction has no meaning. -/
inductive Refusal where
  /-- Raised by an arm of `exec` whose instruction has no meaning yet (safe). No arm of this model does. -/
  | notModelled (mnemonic : String)
  deriving DecidableEq, Repr

/-- The outcome of an instruction or a step. -/
abbrev Result := Host.Outcome State Fault Refusal

/-- The state of 10_state.md R39 with an empty program, for given parameters: memory lists nothing, since an unlisted
address reads as its reset content (log 8). The zero values are the spec's decision D14 (log 6). -/
def State.powerOn (p : Params) : State where
  mem := []
  x := Vector.replicate 16 0#8
  I := 0x0000#16
  pc := 0x0200#16
  stack := Vector.replicate 16 0#16
  sp := 0
  DT := 0x00#8
  ST := 0x00#8
  fb := Vector.replicate 32 0#64
  key := Vector.replicate 16 false
  latch := false
  wait := false
  drew := false
  fault := 0#2
  faultDetail := 0#3
  faultPc := 0x0000#16
  faultWord := 0x0000#16
  params := p
  rndIn := []
  draws := 0
  driver := []

/-- The machine right after reset (10_state.md R39) with an empty program, which is legal (70_reset_and_hazards.md R282),
the parameters at their defaults (00_scope.md R5), and no pending driver input (log 3, log 4). -/
def State.reset : State := State.powerOn defaultParams

end Sys2Proof.Machine
end

