-- ==== Sys2Proof/Machine/Ops.lean ====
section
/-! DEFINITION. Machine/Ops.lean: the named operations over memory, registers, stack, keys and display, the program
counter's movements, and taking a fault. -/

namespace Sys2Proof.Machine

/-! ### Memory (20_memory.md) -/

/-- What an address reads as when nothing has been written there: its reset content (20_memory.md R62), the font table at
0x050 to 0x09F and zero elsewhere. -/
def Memory.resetByte (rom : FontRom) (a : Nat) : Byte :=
  if Config.fontBase ≤ a then (rom[a - Config.fontBase]?).getD 0#8 else 0#8

/-- The byte at an address. -/
def Memory.read (rom : FontRom) : Memory → Nat → Byte
  | [], a => Memory.resetByte rom a
  | (b, v) :: m, a => if a = b then v else Memory.read rom m a

/-- Insertion into the rising list; an entry equal to the reset content is left out. -/
def Memory.insert (rom : FontRom) (a : Nat) (v : Byte) : Memory → Memory
  | [] => if v = Memory.resetByte rom a then [] else [(a, v)]
  | (b, u) :: m =>
    if a < b then
      if v = Memory.resetByte rom a then (b, u) :: m else (a, v) :: (b, u) :: m
    else if a = b then
      if v = Memory.resetByte rom a then m else (a, v) :: m
    else (b, u) :: Memory.insert rom a v m

/-- The write of one byte (20_memory.md R65). The range is tested by the instruction before any effect (R70); an address
that does not exist takes no byte. -/
def Memory.write (rom : FontRom) (m : Memory) (a : Nat) (v : Byte) : Memory :=
  if a < Config.memSize then Memory.insert rom a v m else m

/-- Bytes written one after another to consecutive addresses. -/
def Memory.writes (rom : FontRom) (m : Memory) (a : Nat) : List Byte → Memory
  | [] => m
  | v :: vs => Memory.writes rom (Memory.write rom m a v) (a + 1) vs

/-- The canonical form of a memory list: addresses inside the memory and strictly rising, no entry equal to what an
unlisted address reads as. -/
abbrev Memory.wf (rom : FontRom) (m : Memory) : Prop :=
  m.Pairwise (fun c d => c.1 < d.1) ∧ ∀ c ∈ m, c.1 < Config.memSize ∧ c.2 ≠ Memory.resetByte rom c.1

/-- The range test of an access of `n` consecutive bytes from `a`, a mathematical integer (20_memory.md R64, R66, R70):
in range iff it touches no byte or its last address is at most 0xFFF. -/
def accessOk (a n : Nat) : Bool := n == 0 || a + n ≤ Config.memSize

/-- The byte of memory at an address. -/
def State.readByte (s : State) (a : Nat) : Byte := s.mem.read s.params.fontRom a

/-- Bytes stored at consecutive addresses. -/
def State.storeBytes (s : State) (a : Nat) (vs : List Byte) : State :=
  { s with mem := s.mem.writes s.params.fontRom a vs }

/-! ### Registers -/

/-- `x[r]` (00_scope.md R8). No register is hardwired (10_state.md R21). -/
def State.reg (s : State) (r : Nibble) : Byte := s.x[r.toNat]'(r.isLt)

/-- `x[r] <- v` (00_scope.md R8). -/
def State.setReg (s : State) (r : Nibble) (v : Byte) : State :=
  { s with x := s.x.set r.toNat v r.isLt }

/-- `x[0]` to `x[r]` in order, the registers of a bulk transfer (45_memory_index.md R225). -/
def State.regsUpTo (s : State) (r : Nibble) : List Byte := s.x.toList.take (r.toNat + 1)

/-- `x[i] <- MemRead(a + i, 1)` for `i` in `0 .. r` (45_memory_index.md R226). -/
def State.loadRegs (s : State) (a : Nat) (r : Nibble) : State :=
  { s with x := (List.range (r.toNat + 1)).foldl (fun v i => v.setIfInBounds i (s.readByte (a + i))) s.x }

/-! ### Stack (10_state.md R29) -/

/-- `stack[j]`. -/
def State.stackCell (s : State) (j : Nibble) : Word := s.stack[j.toNat]'(j.isLt)

/-- Push a return address; none when the stack is full (41_control_flow.md R143). -/
def State.push (s : State) (v : Word) : Option State :=
  if h : s.sp.val < 16 then
    some { s with stack := s.stack.set s.sp.val v h, sp := ⟨s.sp.val + 1, by omega⟩ }
  else none

/-- Pop a return address, leaving its cell as it was; none when the stack is empty (41_control_flow.md R144). -/
def State.pop (s : State) : Option (Word × State) :=
  if h : 0 < s.sp.val then
    some (s.stack[s.sp.val - 1]'(by omega), { s with sp := ⟨s.sp.val - 1, by omega⟩ })
  else none

/-! ### Program counter -/

/-- What every completing cycle starts with (40_cycle.md R123): `pc` advanced past the word, `drew` and `wait` cleared. -/
def State.advance (s : State) : State := { s with pc := s.pc + 2#16, drew := false, wait := false }

/-- A skip: 2 more on top of the fetch's advance when the condition holds (41_control_flow.md R140). -/
def State.skipIf (s : State) (c : Bool) : State := if c then { s with pc := s.pc + 2#16 } else s

/-- `pc <- target` (41_control_flow.md R140: used as it is, with no check). -/
def State.jump (s : State) (target : Word) : State := { s with pc := target }

/-! ### Display (10_state.md R32) -/

/-- The pixel at column `px` and row `py`. -/
def Display.pixel (fb : Display) (px py : Nat) : Bool := ((fb[py]?).getD 0#64).getLsbD px

/-- The display with one pixel inverted. -/
def Display.flip (fb : Display) (px py : Nat) : Display :=
  if h : py < Config.dispH then fb.set py (fb[py] ^^^ BitVec.twoPow 64 px) h else fb

/-- `fb[j]`: the row-major index is `y*64 + x` (10_state.md R32). -/
def State.fbBit (s : State) (j : Nat) : Bool :=
  Display.pixel s.fb (j % Config.dispW) (j / Config.dispW)

/-- The pixel at column `px` and row `py`. -/
def State.pixel (s : State) (px py : Nat) : Bool := Display.pixel s.fb px py

/-! ### Keys (10_state.md R33) -/

/-- `key[k]`. -/
def State.keyDown (s : State) (k : Nibble) : Bool := s.key[k.toNat]'(k.isLt)

/-- `key[k] <- v`. -/
def State.setKey (s : State) (k : Nibble) (v : Bool) : State :=
  { s with key := s.key.set k.toNat v k.isLt }

/-! ### Faults (60_exceptions.md) -/

/-- The cause code written to `fault` (60_exceptions.md R240). -/
def Trap.cause : Trap → BitVec 2
  | .invalidOpcode => 1
  | .fetch => 2
  | .dataRead => 2
  | .dataWrite => 2
  | .stackOverflow => 2
  | .stackUnderflow => 2
  | .loadTooLong => 3

/-- The sub-cause code written to `fault_detail` (60_exceptions.md R240). -/
def Trap.detail : Trap → BitVec 3
  | .invalidOpcode => 0
  | .fetch => 1
  | .dataRead => 2
  | .dataWrite => 3
  | .stackOverflow => 4
  | .stackUnderflow => 5
  | .loadTooLong => 6

/-- The fault registers written (60_exceptions.md R240). -/
def State.recordFault (s : State) (t : Trap) (at_ word : Word) : State :=
  { s with fault := t.cause, faultDetail := t.detail, faultPc := at_, faultWord := word }

/-- Taking a fault (60_exceptions.md R241, R250), from the state the cycle BEGAN in: the fault registers are written with
the address of the instruction and its word, and nothing else changes. Control goes nowhere: the CORE is halted. There is
no return from a fault (R251); only a reset leaves the halted state. -/
def State.raise (s : State) (t : Trap) (word : Word) : State := s.recordFault t s.pc word

/-- Halted on a fault (40_cycle.md R126). -/
def State.halted (s : State) : Bool := s.fault != 0#2

/-! ### Outputs (40_cycle.md R130) -/

/-- `tone`, a combinational function of `ST` (60_exceptions.md R258). -/
def State.tone (s : State) : Bool := decide (0#8 < s.ST)

/-- What the driver reads between operations (40_cycle.md R130). -/
structure Outputs where
  fb : Display
  drew : Bool
  tone : Bool
  wait : Bool
  fault : BitVec 2
  faultDetail : BitVec 3
  faultPc : Word
  faultWord : Word
  deriving DecidableEq, Repr

/-- The outputs; reading them has no effect on the state. -/
def State.outputs (s : State) : Outputs where
  fb := s.fb
  drew := s.drew
  tone := s.tone
  wait := s.wait
  fault := s.fault
  faultDetail := s.faultDetail
  faultPc := s.faultPc
  faultWord := s.faultWord

end Sys2Proof.Machine
end

