-- ==== Sys2Proof/Machine/Flags.lean ====
section
/-! DEFINITION. Machine/Flags.lean: the flag computations (10_state.md R22) and the order in which a flag-writing
instruction writes (R23). -/

namespace Sys2Proof.Machine

/-- VF, the flag register (10_state.md R22). -/
def vf : Nibble := 15#4

/-- A flag as a register value: 0 or 1. -/
def flagByte (b : Bool) : Byte := if b then 1#8 else 0#8

/-- Carry: 1 iff the mathematical sum exceeds 255 (42_arith_logic.md R161, R168). -/
def carryOf (a b : Byte) : Bool := decide (255 < a.toNat + b.toNat)

/-- Not-borrow of `a - b`: 1 iff `a ≥ b` (42_arith_logic.md R161, R169). -/
def notBorrow (a b : Byte) : Bool := decide (b.toNat ≤ a.toNat)

/-- The bit a right shift pushes out (42_arith_logic.md R170). -/
def shrOut (v : Byte) : Bool := v.getLsbD 0

/-- The bit a left shift pushes out (42_arith_logic.md R172). -/
def shlOut (v : Byte) : Bool := v.getLsbD 7

/-- Result first, flag last, so that with `X = 15` the flag wins (10_state.md R23). The caller has read its operands
before. -/
def State.setRegFlag (s : State) (x : Nibble) (v : Byte) (f : Bool) : State :=
  (s.setReg x v).setReg vf (flagByte f)

end Sys2Proof.Machine
end

