-- ==== Sys2Proof/Machine/Operands.lean ====
section
/-! DEFINITION. Machine/Operands.lean: the operand forms (30_encoding.md R93) and the values instructions compute from
them: immediates, the shift source, key and glyph numbers, the `I`-relative address, decimal digits, the least pressed
key, the random byte, the sprite. -/

namespace Sys2Proof.Machine

/-- `zext_16(NNN)` (30_encoding.md R93). -/
def zextAddr (nnn : Addr12) : Word := nnn.setWidth 16

/-- `zext_16(x)` of a register. -/
def zextByte (v : Byte) : Word := v.setWidth 16

/-- The low nibble `v[3:0]`, by which a register selects a key or a glyph (44_timer_key.md R204, 45_memory_index.md R223;
decisions D11, D12). -/
def lowNibble (v : Byte) : Nibble := v.extractLsb' 0 4

/-- `S`, the register a shift reads (42_arith_logic.md R170, decision D9). -/
def shiftSource (p : ShiftSrc) (x y : Nibble) : Nibble :=
  match p with
  | .x => x
  | .y => y

/-- The effective address `I + k`, a mathematical integer (20_memory.md R66). -/
def State.ea (s : State) (k : Nat) : Nat := s.I.toNat + k

/-- The address of a glyph (45_memory_index.md R223). -/
def glyphAddr (d : Nibble) : Word := BitVec.ofNat 16 (Config.fontBase + 5 * d.toNat)

/-- Hundreds, tens and ones (45_memory_index.md R224). -/
def bcdDigits (v : Byte) : List Byte :=
  [BitVec.ofNat 8 (v.toNat / 100), BitVec.ofNat 8 (v.toNat / 10 % 10), BitVec.ofNat 8 (v.toNat % 10)]

/-- The least `k` with `key[k] = 1` (44_timer_key.md R203). -/
def State.leastKey (s : State) : Option Nat := s.key.toList.findIdx? id

/-- The random byte an `RND` reads: the driver's next supplied byte, else a free draw (40_cycle.md R124; log 4). -/
def State.nextRandom (s : State) : Byte :=
  match s.rndIn with
  | r :: _ => r
  | [] => Config.freeRnd s.draws

/-- The state after the random byte has been read: each byte is read once. -/
def State.consumeRandom (s : State) : State :=
  match s.rndIn with
  | _ :: rest => { s with rndIn := rest }
  | [] => { s with draws := s.draws + 1 }

/-! ### The sprite (43_display.md R192) -/

/-- One sprite bit at one pixel: XOR, and the collision so far. -/
def plot (px py : Nat) (bit : Bool) (acc : Display × Bool) : Display × Bool :=
  (if bit then acc.1.flip px py else acc.1, acc.2 || (bit && acc.1.pixel px py))

/-- One row: 8 bits, most significant first, each pixel's column wrapping by itself. -/
def spriteRow (b : Byte) (ox py : Nat) (acc : Display × Bool) : Display × Bool :=
  (List.range Config.spriteW).foldl (fun acc c => plot ((ox + c) % Config.dispW) py (b.getLsbD (7 - c)) acc) acc

/-- `n` rows, each row's place wrapping by itself; the display after the draw and whether a pixel went from set to
unset. -/
def drawSprite (row : Nat → Byte) (n ox oy : Nat) (fb : Display) : Display × Bool :=
  (List.range n).foldl (fun acc r => spriteRow (row r) ox ((oy + r) % Config.dispH) acc) (fb, false)

/-- The sprite drawn by `DRW Vx,Vy,N` in a state: origin reduced modulo the grid, rows from `I` on. -/
def State.sprite (s : State) (x y n : Nibble) : Display × Bool :=
  drawSprite (fun r => s.readByte (s.ea r)) n.toNat ((s.reg x).toNat % Config.dispW) ((s.reg y).toNat % Config.dispH) s.fb

end Sys2Proof.Machine
end

