-- ==== Sys2Proof/Machine/Arith.lean ====
section
/-! DEFINITION. Machine/Arith.lean: the arithmetic and logic instructions (42_arith_logic.md). -/

namespace Sys2Proof.Machine

/-- `LD Vx,NN` (42_arith_logic.md R162). -/
def execLdImm (x : Nibble) (nn : Byte) (s : State) : Result := .next (s.advance.setReg x nn)

/-- `ADD Vx,NN` (42_arith_logic.md R163): no flag. -/
def execAddImm (x : Nibble) (nn : Byte) (s : State) : Result := .next (s.advance.setReg x (s.reg x + nn))

/-- `LD Vx,Vy` (42_arith_logic.md R164). -/
def execLdReg (x y : Nibble) (s : State) : Result := .next (s.advance.setReg x (s.reg y))

/-- `OR Vx,Vy` (42_arith_logic.md R165): no flag. -/
def execOrReg (x y : Nibble) (s : State) : Result := .next (s.advance.setReg x (s.reg x ||| s.reg y))

/-- `AND Vx,Vy` (42_arith_logic.md R166): no flag. -/
def execAndReg (x y : Nibble) (s : State) : Result := .next (s.advance.setReg x (s.reg x &&& s.reg y))

/-- `XOR Vx,Vy` (42_arith_logic.md R167): no flag. -/
def execXorReg (x y : Nibble) (s : State) : Result := .next (s.advance.setReg x (s.reg x ^^^ s.reg y))

/-- `ADD Vx,Vy` (42_arith_logic.md R168). -/
def execAddReg (x y : Nibble) (s : State) : Result :=
  .next (s.advance.setRegFlag x (s.reg x + s.reg y) (carryOf (s.reg x) (s.reg y)))

/-- `SUB Vx,Vy` (42_arith_logic.md R169). -/
def execSubReg (x y : Nibble) (s : State) : Result :=
  .next (s.advance.setRegFlag x (s.reg x - s.reg y) (notBorrow (s.reg x) (s.reg y)))

/-- `SHR Vx{,Vy}` (42_arith_logic.md R170). -/
def execShr (x y : Nibble) (s : State) : Result :=
  .next (s.advance.setRegFlag x (s.reg (shiftSource s.params.shiftSrc x y) >>> 1)
    (shrOut (s.reg (shiftSource s.params.shiftSrc x y))))

/-- `SUBN Vx,Vy` (42_arith_logic.md R171). -/
def execSubn (x y : Nibble) (s : State) : Result :=
  .next (s.advance.setRegFlag x (s.reg y - s.reg x) (notBorrow (s.reg y) (s.reg x)))

/-- `SHL Vx{,Vy}` (42_arith_logic.md R172). -/
def execShl (x y : Nibble) (s : State) : Result :=
  .next (s.advance.setRegFlag x (s.reg (shiftSource s.params.shiftSrc x y) <<< 1)
    (shlOut (s.reg (shiftSource s.params.shiftSrc x y))))

/-- `RND Vx,NN` (42_arith_logic.md R173). -/
def execRnd (x : Nibble) (nn : Byte) (s : State) : Result :=
  .next (s.advance.consumeRandom.setReg x (s.nextRandom &&& nn))

end Sys2Proof.Machine
end

