-- ==== Sys2Proof/Machine/ControlFlow.lean ====
section
/-! DEFINITION. Machine/ControlFlow.lean: the control-flow instructions (41_control_flow.md). Each meaning takes the state
in which the cycle begins, `pc` at the instruction (log 1). -/

namespace Sys2Proof.Machine

/-- `SYS NNN`, a legacy jump (41_control_flow.md R141). -/
def execSys (nnn : Addr12) (s : State) : Result := .next (s.advance.jump (zextAddr nnn))

/-- `JP NNN` (41_control_flow.md R142). -/
def execJp (nnn : Addr12) (s : State) : Result := .next (s.advance.jump (zextAddr nnn))

/-- `CALL NNN` (41_control_flow.md R143): the post-fetch `pc` is pushed. -/
def execCall (nnn : Addr12) (s : State) : Result :=
  match s.advance.push s.advance.pc with
  | some t => .next (t.jump (zextAddr nnn))
  | none => .next (s.raise .stackOverflow (encode (.call nnn)))

/-- `RET` (41_control_flow.md R144). -/
def execRet (s : State) : Result :=
  match s.advance.pop with
  | some (target, t) => .next (t.jump target)
  | none => .next (s.raise .stackUnderflow (encode .ret))

/-- `SE Vx,NN` (41_control_flow.md R145). -/
def execSeImm (x : Nibble) (nn : Byte) (s : State) : Result := .next (s.advance.skipIf (s.reg x == nn))

/-- `SNE Vx,NN` (41_control_flow.md R146). -/
def execSneImm (x : Nibble) (nn : Byte) (s : State) : Result := .next (s.advance.skipIf (s.reg x != nn))

/-- `SE Vx,Vy` (41_control_flow.md R147). The low nibble of the word is ignored (30_encoding.md R99). -/
def execSeReg (x y : Nibble) (s : State) : Result := .next (s.advance.skipIf (s.reg x == s.reg y))

/-- `SNE Vx,Vy` (41_control_flow.md R148). The low nibble of the word is ignored (30_encoding.md R99). -/
def execSneReg (x y : Nibble) (s : State) : Result := .next (s.advance.skipIf (s.reg x != s.reg y))

/-- `JP V0,NNN` (41_control_flow.md R149): the sum is not reduced. -/
def execJpV0 (nnn : Addr12) (s : State) : Result := .next (s.advance.jump (zextAddr nnn + zextByte (s.reg 0#4)))

end Sys2Proof.Machine
end

