-- ==== Sys2Proof/Machine/DisplayInstr.lean ====
section
/-! DEFINITION. Machine/DisplayInstr.lean: the display instructions (43_display.md). -/

namespace Sys2Proof.Machine

/-- `CLS` (43_display.md R191): `drew` stays 0. -/
def execCls (s : State) : Result := .next { s.advance with fb := Vector.replicate 32 0#64 }

/-- `DRW Vx,Vy,N` (43_display.md R192): the range test comes before every effect, the flag is written last. -/
def execDrw (x y n : Nibble) (s : State) : Result :=
  if accessOk (s.ea 0) n.toNat then
    .next ({ s.advance with fb := (s.sprite x y n).1, drew := true }.setReg vf (flagByte (s.sprite x y n).2))
  else .next (s.raise .dataRead (encode (.drw x y n)))

end Sys2Proof.Machine
end

