-- ==== Sys2Proof/Machine/MemIndex.lean ====
section
/-! DEFINITION. Machine/MemIndex.lean: the index-register and memory-transfer instructions (45_memory_index.md). No
transfer changes `I` (R220, decision D10). -/

namespace Sys2Proof.Machine

/-- `LD I,NNN` (45_memory_index.md R221). -/
def execLdI (nnn : Addr12) (s : State) : Result := .next { s.advance with I := zextAddr nnn }

/-- `ADD I,Vx` (45_memory_index.md R222): 16-bit wrap, no flag (decision D13). -/
def execAddI (x : Nibble) (s : State) : Result := .next { s.advance with I := s.I + zextByte (s.reg x) }

/-- `LD F,Vx` (45_memory_index.md R223): it computes an address and reads no memory. -/
def execLdF (x : Nibble) (s : State) : Result := .next { s.advance with I := glyphAddr (lowNibble (s.reg x)) }

/-- `LD B,Vx` (45_memory_index.md R224). -/
def execLdB (x : Nibble) (s : State) : Result :=
  if accessOk (s.ea 0) 3 then .next (s.advance.storeBytes (s.ea 0) (bcdDigits (s.reg x)))
  else .next (s.raise .dataWrite (encode (.ldB x)))

/-- `LD [I],Vx` (45_memory_index.md R225). -/
def execDump (x : Nibble) (s : State) : Result :=
  if accessOk (s.ea 0) (x.toNat + 1) then .next (s.advance.storeBytes (s.ea 0) (s.regsUpTo x))
  else .next (s.raise .dataWrite (encode (.dump x)))

/-- `LD Vx,[I]` (45_memory_index.md R226). -/
def execLoad (x : Nibble) (s : State) : Result :=
  if accessOk (s.ea 0) (x.toNat + 1) then .next (s.advance.loadRegs (s.ea 0) x)
  else .next (s.raise .dataRead (encode (.load x)))

end Sys2Proof.Machine
end

