-- ==== Sys2Proof/Machine/TimerKey.lean ====
section
/-! DEFINITION. Machine/TimerKey.lean: the timer and key instructions (44_timer_key.md). -/

namespace Sys2Proof.Machine

/-- `LD Vx,DT` (44_timer_key.md R200). -/
def execLdVxDt (x : Nibble) (s : State) : Result := .next (s.advance.setReg x s.DT)

/-- `LD DT,Vx` (44_timer_key.md R201). -/
def execLdDtVx (x : Nibble) (s : State) : Result := .next { s.advance with DT := s.reg x }

/-- `LD ST,Vx` (44_timer_key.md R202). -/
def execLdStVx (x : Nibble) (s : State) : Result := .next { s.advance with ST := s.reg x }

/-- The key the wait would take: the least pressed one, while the latch is clear (44_timer_key.md R203). -/
def State.qualifyingKey (s : State) : Option Nat := if s.latch then none else s.leastKey

/-- `LD Vx,K` (44_timer_key.md R203): completes with the qualifying key and raises the latch, else `pc` goes back and the
machine waits. -/
def execLdVxK (x : Nibble) (s : State) : Result :=
  match s.qualifyingKey with
  | some k => .next { s.advance.setReg x (BitVec.ofNat 8 k) with latch := true }
  | none => .next { s.advance with pc := s.advance.pc - 2#16, wait := true }

/-- `SKP Vx` (44_timer_key.md R204). -/
def execSkp (x : Nibble) (s : State) : Result := .next (s.advance.skipIf (s.keyDown (lowNibble (s.reg x))))

/-- `SKNP Vx` (44_timer_key.md R205). -/
def execSknp (x : Nibble) (s : State) : Result := .next (s.advance.skipIf (!s.keyDown (lowNibble (s.reg x))))

end Sys2Proof.Machine
end

