-- ==== Sys2Proof/Machine/Driver.lean ====
section
/-! DEFINITION. Machine/Driver.lean: the driver's operations other than `Cycle` (40_cycle.md R121): the timer countdown,
the key events, and reset with its load. -/

namespace Sys2Proof.Machine

/-- One step of a timer, saturating at 0 (60_exceptions.md R255). -/
def countDown (v : Byte) : Byte := if v = 0#8 then 0#8 else v - 1#8

/-- `TimerTick()` (60_exceptions.md R255): both timers, in every state, halted or not. -/
def State.timerTick (s : State) : State := { s with DT := countDown s.DT, ST := countDown s.ST }

/-- `KeyPress(k)` (60_exceptions.md R256): the latch is not changed. -/
def State.keyPress (s : State) (k : Nibble) : State := s.setKey k true

/-- `KeyRelease(k)` (60_exceptions.md R257): the one latch is cleared, whichever key is released. -/
def State.keyRelease (s : State) (k : Nibble) : State := { s.setKey k false with latch := false }

/-- `Reset(program)` (70_reset_and_hazards.md R280, R283): the state of the CORE is created anew; a program that is too
long is refused, and the CORE comes out halted. The parameters and the driver's own pending inputs are not the CORE's and
stay (log 3). -/
def State.load (s : State) (program : List Byte) : State :=
  let t : State :=
    { State.powerOn s.params with rndIn := s.rndIn, draws := s.draws, driver := s.driver }
  if program.length ≤ Config.progMax then t.storeBytes Config.progBase program
  else t.recordFault .loadTooLong 0#16 0#16

end Sys2Proof.Machine
end

