-- ==== Sys2Proof/Machine/Cycle.lean ====
section
/-! DEFINITION. Machine/Cycle.lean: the instruction cycle (40_cycle.md R123) and the performance of one operation of the
driver (R121). -/

namespace Sys2Proof.Machine

/-- The instruction word at `pc`, big-endian (20_memory.md R67), at any parity of `pc` (R68). -/
def State.fetchWord (s : State) : Word :=
  wordOfBytes (s.readByte s.pc.toNat) (s.readByte (s.pc.toNat + 1))

/-- `Cycle` (40_cycle.md R123): nothing when halted; else fetch, decode, execute, the first of them that raises ending
the cycle (60_exceptions.md R248). A fetch fault records no word (R240). -/
def State.cycle (s : State) : Result :=
  if s.halted then .next s
  else if accessOk s.pc.toNat 2 then
    match decode s.fetchWord with
    | .ok i => exec i s
    | .error _ => .next (s.raise .invalidOpcode s.fetchWord)
  else .next (s.raise .fetch 0#16)

/-- One operation of the driver (40_cycle.md R121). Reading the outputs has no effect (R130). -/
def State.perform (s : State) (op : DriverOp) : Result :=
  match op with
  | .reset program => .next (s.load program)
  | .cycle => s.cycle
  | .timerTick => .next s.timerTick
  | .keyPress k => .next (s.keyPress k)
  | .keyRelease k => .next (s.keyRelease k)
  | .readOutputs => .next s

/-- The next operation: the oldest one the driver has issued, else a `Cycle` (40_cycle.md R122; log 3). -/
def State.nextOp (s : State) : Result :=
  match s.driver with
  | [] => s.cycle
  | op :: rest => State.perform { s with driver := rest } op

/-- A state whose next operation is a `Cycle` that fetches the given word: no driver operation pending, not halted, `pc`
where an instruction can be fetched (as it is if it can, else the reset entry), the word's two bytes there. -/
def State.placeWord (s : State) (w : Word) : State :=
  let t : State :=
    if s.halted then { s with fault := 0#2, faultDetail := 0#3, faultPc := 0#16, faultWord := 0#16 } else s
  let u : State := if accessOk t.pc.toNat 2 then t else { t with pc := 0x0200#16 }
  { u.storeBytes u.pc.toNat [hiByte w, loByte w] with driver := [] }

end Sys2Proof.Machine
end

