-- ==== Sys2Proof/Machine/Step.lean ====
section
/-! DEFINITION. Machine/Step.lean: the one step of the machine, and the placing of an instruction where the step fetches
its next one. -/

namespace Sys2Proof.Machine

/-- One step: the next operation of the schedule (40_cycle.md R120 to R122). -/
def step (s : State) : Host.Outcome State Fault Refusal := s.nextOp

/-- The state with the instruction of a table row's bits placed where `step` fetches next (log 9). -/
def State.withFetchWord (s : State) (nbits w : Nat) : State := s.placeWord (tableWord nbits w)

end Sys2Proof.Machine
end

