-- ==== Sys2Proof/Safety.lean ====
section
/-! DEFINITION. Safety.lean: the terms claims are stated in: a machine that runs, the invariant of the reachable states,
and what two states have in common (the frames). -/

namespace Sys2Proof.Machine

/-- No fault is recorded: the premise of every claim about a correct run (60_exceptions.md R247). -/
abbrev State.Running (s : State) : Prop := s.fault = 0#2

/-- The spec's convention for a finished program: `pc` at a jump to itself, no fault (40_cycle.md R132, decision D19). -/
def State.Finished (s : State) : Prop :=
  s.Running ∧ s.pc.toNat ≤ 0xFFE ∧ ∃ nnn, decode s.fetchWord = .ok (.jp nnn) ∧ zextAddr nnn = s.pc

/-- The next operation is a `Cycle`, and it begins in `c`: none is pending, or a `Cycle` is and has left the queue
(40_cycle.md R122; log 3). -/
def State.BeginsCycle (s c : State) : Prop :=
  (s.driver = [] ∧ c = s) ∨ ∃ rest, s.driver = .cycle :: rest ∧ c = { s with driver := rest }

/-! ### The invariant -/

/-- The fault registers hold one of the records of 60_exceptions.md R240, and a recorded cycle's fault has left `pc`, and
what its test found, as they were (R241). -/
def State.FaultRecordLegal (s : State) : Prop :=
  (s.fault = 0#2 ∧ s.faultDetail = 0#3 ∧ s.faultPc = 0#16 ∧ s.faultWord = 0#16) ∨
  (s.fault = 1#2 ∧ s.faultDetail = 0#3 ∧ s.faultPc = s.pc ∧
    decode s.faultWord = .error (.invalidOpcode s.faultWord)) ∨
  (s.fault = 2#2 ∧ s.faultPc = s.pc ∧
    ((s.faultDetail = 1#3 ∧ s.faultWord = 0#16 ∧ 0xFFE < s.pc.toNat) ∨
     (s.faultDetail = 2#3 ∧ ((∃ x y n, decode s.faultWord = .ok (.drw x y n)) ∨ ∃ x, decode s.faultWord = .ok (.load x))) ∨
     (s.faultDetail = 3#3 ∧ ((∃ x, decode s.faultWord = .ok (.ldB x)) ∨ ∃ x, decode s.faultWord = .ok (.dump x))) ∨
     (s.faultDetail = 4#3 ∧ s.sp.val = 16 ∧ ∃ nnn, decode s.faultWord = .ok (.call nnn)) ∨
     (s.faultDetail = 5#3 ∧ s.sp.val = 0 ∧ decode s.faultWord = .ok .ret))) ∨
  (s.fault = 3#2 ∧ s.faultDetail = 6#3 ∧ s.faultPc = 0#16 ∧ s.faultWord = 0#16)

/-- What every step keeps. -/
structure State.Inv (s : State) : Prop where
  /-- The memory list is canonical. -/
  memCanonical : Memory.wf s.params.fontRom s.mem
  /-- The largest value `pc` can take (10_state.md R28). -/
  pcBound : s.pc.toNat ≤ 0x10FE
  /-- A pushed return address follows an instruction inside the memory (41_control_flow.md R143). -/
  stackBound : ∀ j, (s.stackCell j).toNat ≤ 0x1000
  /-- The fault record is one of the spec's. -/
  faultRecord : s.FaultRecordLegal
  /-- A stalled key wait is no draw (10_state.md R34, R35). -/
  waitNotDrew : ¬ (s.wait = true ∧ s.drew = true)

/-! ### What an instruction's rule lists -/

/-- The general registers the rule of an instruction writes (40_cycle.md R125): its destination, VF where it is a flag
writer (10_state.md R22), `x[0..X]` for `LD Vx,[I]`. -/
def WritesReg (i : Instr) (r : Nibble) : Prop :=
  match i with
  | .ldImm x _ | .addImm x _ | .ldReg x _ | .orReg x _ | .andReg x _ | .xorReg x _ | .rnd x _ | .ldVxDt x | .ldVxK x =>
    r = x
  | .addReg x _ | .subReg x _ | .subn x _ | .shr x _ | .shl x _ => r = x ∨ r = 15#4
  | .drw _ _ _ => r = 15#4
  | .load x => r.toNat ≤ x.toNat
  | .sys _ | .cls | .ret | .jp _ | .call _ | .seImm _ _ | .sneImm _ _ | .seReg _ _ _ | .sneReg _ _ _ | .jpV0 _ | .skp _
  | .sknp _ | .ldI _ | .addI _ | .ldF _ | .ldDtVx _ | .ldStVx _ | .ldB _ | .dump _ => False

/-! ### Frames -/

/-- Every general register but the listed ones is unchanged. -/
def SameRegsExcept (rs : List Nibble) (s t : State) : Prop := ∀ r, r ∉ rs → t.reg r = s.reg r

/-- `I` is unchanged. -/
def SameIndex (s t : State) : Prop := t.I = s.I

/-- Every byte of memory reads as before. -/
def SameMemory (s t : State) : Prop := ∀ a, t.readByte a = s.readByte a

/-- `sp` and every stack cell are unchanged. -/
def SameStack (s t : State) : Prop := t.sp = s.sp ∧ ∀ j, t.stackCell j = s.stackCell j

/-- `DT` and `ST` are unchanged. -/
def SameTimers (s t : State) : Prop := t.DT = s.DT ∧ t.ST = s.ST

/-- Every pixel is unchanged. -/
def SameDisplay (s t : State) : Prop := ∀ j, t.fbBit j = s.fbBit j

/-- Every key and the latch are unchanged. -/
def SameKeys (s t : State) : Prop := (∀ k, t.keyDown k = s.keyDown k) ∧ t.latch = s.latch

/-- The fault registers are unchanged. -/
def SameFault (s t : State) : Prop :=
  t.fault = s.fault ∧ t.faultDetail = s.faultDetail ∧ t.faultPc = s.faultPc ∧ t.faultWord = s.faultWord

/-- The random input is unchanged: nothing was drawn. -/
def SameRandom (s t : State) : Prop := t.rndIn = s.rndIn ∧ t.draws = s.draws

/-- The parameters and the driver's pending operations are unchanged. -/
def SameOutside (s t : State) : Prop := t.params = s.params ∧ t.driver = s.driver

/-- `pc`, `drew` and `wait` are unchanged. -/
def SameFlow (s t : State) : Prop := t.pc = s.pc ∧ t.drew = s.drew ∧ t.wait = s.wait

/-- Every state element other than the general registers, `pc`, `drew` and `wait` is unchanged. -/
def SameRest (s t : State) : Prop :=
  SameIndex s t ∧ SameMemory s t ∧ SameStack s t ∧ SameTimers s t ∧ SameDisplay s t ∧ SameKeys s t ∧ SameFault s t ∧
    SameRandom s t ∧ SameOutside s t

/-- The ordinary end of a cycle: `pc` past the instruction, no draw signalled, Running (40_cycle.md R123). -/
def OrdinaryEnd (s t : State) : Prop := t.pc = s.pc + 2#16 ∧ t.drew = false ∧ t.wait = false

/-- The end of a cycle whose instruction chose `pc`: no draw signalled, Running. -/
def EndAt (target : Word) (t : State) : Prop := t.pc = target ∧ t.drew = false ∧ t.wait = false

/-- A fault taken: the four fault registers hold the record and every other state element is unchanged
(60_exceptions.md R241). -/
def FaultTaken (cause : BitVec 2) (detail : BitVec 3) (at_ word : Word) (s t : State) : Prop :=
  t.fault = cause ∧ t.faultDetail = detail ∧ t.faultPc = at_ ∧ t.faultWord = word ∧
    SameRegsExcept [] s t ∧ SameIndex s t ∧ SameMemory s t ∧ SameStack s t ∧ SameTimers s t ∧ SameDisplay s t ∧
    SameKeys s t ∧ SameRandom s t ∧ SameOutside s t ∧ SameFlow s t

end Sys2Proof.Machine
end

