-- ==== Sys2Proof/Certificates/Slice0/Obligations.lean ====
section
/-! DEFINITION. Certificates/Slice0/Obligations.lean: the statements for the provers. Every statement about the next state
of an instruction gives that state's contents for EVERY state, as a conclusion: exec answers `next`. A clause about a word
rests on the opcode numbers, which the spec states and says to be general knowledge (93_implementation_defined.md G1, G4,
log 13). -/

open Sys2Proof Sys2Proof.Machine

/-! ### Encoding -/

/-- Decoding the word of any well-formed instruction gives the instruction back, every operand at every value
(30_encoding.md R94 to R100; the opcode numbers are the spec's general knowledge, log 13). -/
def Obligations.DecodeOfEncode : Prop :=
  ∀ i : Instr, i.wellFormed = true → decode (encode i) = .ok i

/-- Every word that decodes is the word of the instruction it decodes to, which is well formed: no word's bits are
dropped, the ignored nibble of families 5 and 9 included (log 14). -/
def Obligations.EncodeOfDecode : Prop :=
  ∀ (w : Word) (i : Instr), decode w = .ok i → i.wellFormed = true ∧ encode i = w

/-- The invalid words, complete (30_encoding.md R101, an inference of the spec from R94 to R99): a word is rejected, by
name, exactly when it is `8XYN`, `EXKK` or `FXKK` with an unlisted discriminant, read as a number. -/
def Obligations.InvalidWordsComplete : Prop :=
  ∀ w : Word, (∃ e, decode w = .error e) ↔
    (w.toNat / 0x1000 = 0x8 ∧ w.toNat % 0x10 ∈ [0x8, 0x9, 0xA, 0xB, 0xC, 0xD, 0xF]) ∨
    (w.toNat / 0x1000 = 0xE ∧ w.toNat % 0x100 ∉ [0x9E, 0xA1]) ∨
    (w.toNat / 0x1000 = 0xF ∧ w.toNat % 0x100 ∉ [0x07, 0x0A, 0x15, 0x18, 0x1E, 0x29, 0x33, 0x55, 0x65])

/-- The opcode map (30_encoding.md R100): a word selects a row exactly when `w and mask = match`, `SYS` excluding the two
fixed words. -/
def Obligations.OpcodeMapSelects : Prop :=
  ∀ (w : Word) (j : Instr),
    (w &&& j.row.1 = j.row.2 ∧ (j.row = (0xF000#16, 0x0000#16) → w ≠ 0x00E0#16 ∧ w ≠ 0x00EE#16)) ↔
      ∃ i, decode w = .ok i ∧ i.row = j.row

/-- Words written out bit by bit from the opcode map, one or two of each family of instructions. -/
def Obligations.WrittenWordsDecode : Prop :=
  decode 0b0000001000110100#16 = .ok (.sys 0x234#12) ∧
  decode 0b0000000011101110#16 = .ok .ret ∧
  decode 0b0010001000010000#16 = .ok (.call 0x210#12) ∧
  decode 0b0101000100100111#16 = .ok (.seReg 1#4 2#4 7#4) ∧
  decode 0b1000000100100101#16 = .ok (.subReg 1#4 2#4) ∧
  decode 0b1101000100100101#16 = .ok (.drw 1#4 2#4 5#4) ∧
  decode 0b1110001110100001#16 = .ok (.sknp 3#4) ∧
  decode 0b1111001001010101#16 = .ok (.dump 2#4)

/-! ### The step -/

/-- A step with no driver operation pending, on a machine that is not halted, runs the instruction its two bytes at `pc`
decode to, big-endian, at any parity of `pc`; a pending `Cycle` does the same after leaving the queue. -/
def Obligations.StepRunsDecodedInstruction : Prop :=
  ∀ (s : State) (hi lo : Byte) (i : Instr), s.Running → s.pc.toNat ≤ 0xFFE →
    s.readByte s.pc.toNat = hi → s.readByte (s.pc.toNat + 1) = lo → decode (hi ++ lo) = .ok i →
    (s.driver = [] → step s = exec i s) ∧
    (∀ rest, s.driver = .cycle :: rest → step s = exec i { s with driver := rest })

/-- A fetch outside the memory, in a cycle pending or not, takes the fault `MemoryFault(FETCH)`, codes 2 and 1, and records
no word (the spec's decisions D1, D3, D5). -/
def Obligations.FetchPastEndFaults : Prop :=
  ∀ s c : State, s.BeginsCycle c → c.Running → 0xFFE < c.pc.toNat →
    ∃ t, step s = .next t ∧ FaultTaken 2#2 1#3 c.pc 0#16 c t

/-- A fetched word that is no instruction, in a cycle pending or not, takes the fault `InvalidOpcode`, code 1, recording the
word; `drew` and `wait` keep their values (the spec's decisions D3, D5). -/
def Obligations.InvalidOpcodeFaults : Prop :=
  ∀ (s c : State) (e : DecodeError), s.BeginsCycle c → c.Running → c.pc.toNat ≤ 0xFFE →
    decode (c.readByte c.pc.toNat ++ c.readByte (c.pc.toNat + 1)) = .error e →
    ∃ t, step s = .next t ∧
      FaultTaken 1#2 0#3 c.pc (c.readByte c.pc.toNat ++ c.readByte (c.pc.toNat + 1)) c t

/-- A halted machine: a cycle, pending or not, changes nothing at all, the timers, the keys and the latch included; whatever
the next operation is, unless it is a reset, the fault record stays and everything but the timers, the keys and the latch is
unchanged (the spec's decisions D4, D27). -/
def Obligations.HaltedUntilReset : Prop :=
  ∀ s : State, ¬ s.Running →
    (∀ c, s.BeginsCycle c → step s = .next c) ∧
    ∀ op rest, s.driver = op :: rest → (∀ p, op ≠ .reset p) →
      ∃ t, step s = .next t ∧ SameFault s t ∧ SameFlow s t ∧ SameRegsExcept [] s t ∧ SameIndex s t ∧ SameMemory s t ∧
        SameStack s t ∧ SameDisplay s t ∧ SameRandom s t ∧ t.params = s.params ∧ t.driver = rest

/-- Faults are precise: a cycle, pending or not, that begins with no fault recorded and ends with one has changed nothing
else, `pc`, `drew` and `wait` included, and has recorded the address it began at (the spec's decisions D3, D4). -/
def Obligations.FaultsArePrecise : Prop :=
  ∀ s c t : State, s.BeginsCycle c → c.Running → step s = .next t → ¬ t.Running →
    FaultTaken t.fault t.faultDetail c.pc t.faultWord c t

/-- The machine never stops: every step and every instruction answers a next state, from every state (log 2). -/
def Obligations.NeverStops : Prop :=
  (∀ s : State, ∃ t, step s = .next t) ∧ ∀ (i : Instr) (s : State), ∃ t, exec i s = .next t

/-- Every step keeps the invariant: canonical memory, the bound on `pc` and on the pushed addresses, a legal fault record
with the machine held at the faulting instruction, and no draw signalled while waiting. -/
def Obligations.StepKeepsInv : Prop :=
  ∀ s t : State, s.Inv → step s = .next t → t.Inv

/-- The state after reset meets the invariant. -/
def Obligations.ResetHasInv : Prop := State.reset.Inv

/-- A `pc` that is even stays even through every cycle whose instruction does not name an odd target, as long as the live
return addresses are even too (10_state.md R27, an inference of the spec beside its decision D6). -/
def Obligations.EvenPcStaysEven : Prop :=
  ∀ s c t : State, s.BeginsCycle c → step s = .next t → c.pc.toNat % 2 = 0 →
    (∀ j : Nibble, j.toNat < c.sp.val → (c.stackCell j).toNat % 2 = 0) →
    (∀ nnn, decode c.fetchWord = .ok (.sys nnn) → nnn.toNat % 2 = 0) →
    (∀ nnn, decode c.fetchWord = .ok (.jp nnn) → nnn.toNat % 2 = 0) →
    (∀ nnn, decode c.fetchWord = .ok (.call nnn) → nnn.toNat % 2 = 0) →
    (∀ nnn, decode c.fetchWord = .ok (.jpV0 nnn) → (nnn.toNat + (c.reg 0#4).toNat) % 2 = 0) →
    t.pc.toNat % 2 = 0 ∧ ∀ j : Nibble, j.toNat < t.sp.val → (t.stackCell j).toNat % 2 = 0

/-- In a completing cycle `wait` ends 1 exactly when the cycle executed `LD Vx,K` and stalled, and `drew` ends 1 exactly
when it executed `DRW` (10_state.md R34, R35, the spec's decision D20). -/
def Obligations.WaitAndDrewSources : Prop :=
  ∀ s c t : State, s.BeginsCycle c → c.Running → step s = .next t → t.Running →
    (t.wait = true ↔ t.pc = c.pc ∧ ∃ x, decode c.fetchWord = .ok (.ldVxK x)) ∧
    (t.drew = true ↔ ∃ x y n, decode c.fetchWord = .ok (.drw x y n))

/-- What a cycle may touch (40_cycle.md R125, which the spec derives from its cycle and its instruction rules; 10_state.md
R21, R24, R25, R29, R31 to R36): each piece of state changes only in a cycle whose instruction is one of its writers; `pc`,
`drew` and `wait` only in a cycle that completes, `drew` rising only in `DRW` and `wait` only in `LD Vx,K`; the fault
registers only in a cycle that faults; the keys, the parameters and the driver's queue in none. That only `RND` takes from
the random input is the model's form of it (log 4). -/
def Obligations.OnlyItsWritersTouch : Prop :=
  ∀ s c t : State, s.BeginsCycle c → step s = .next t →
    (∀ r, t.reg r ≠ c.reg r → ∃ i, decode c.fetchWord = .ok i ∧ WritesReg i r) ∧
    (¬ SameFlow c t → c.Running ∧ t.Running) ∧
    (t.drew = true → c.drew = true ∨ ∃ x y n, decode c.fetchWord = .ok (.drw x y n)) ∧
    (t.wait = true → c.wait = true ∨ ∃ x, decode c.fetchWord = .ok (.ldVxK x)) ∧
    (¬ SameFault c t → c.Running ∧ ¬ t.Running) ∧
    (∀ k, t.keyDown k = c.keyDown k) ∧ SameOutside c t ∧
    (t.DT ≠ c.DT → ∃ x, decode c.fetchWord = .ok (.ldDtVx x)) ∧
    (t.ST ≠ c.ST → ∃ x, decode c.fetchWord = .ok (.ldStVx x)) ∧
    (t.latch ≠ c.latch → t.latch = true ∧ ∃ x, decode c.fetchWord = .ok (.ldVxK x)) ∧
    (¬ SameDisplay c t → decode c.fetchWord = .ok .cls ∨ ∃ x y n, decode c.fetchWord = .ok (.drw x y n)) ∧
    (¬ SameMemory c t → ∃ x, decode c.fetchWord = .ok (.ldB x) ∨ decode c.fetchWord = .ok (.dump x)) ∧
    ((∃ j, t.stackCell j ≠ c.stackCell j) → ∃ nnn, decode c.fetchWord = .ok (.call nnn)) ∧
    (t.sp ≠ c.sp → decode c.fetchWord = .ok .ret ∨ ∃ nnn, decode c.fetchWord = .ok (.call nnn)) ∧
    (t.I ≠ c.I → (∃ nnn, decode c.fetchWord = .ok (.ldI nnn)) ∨
      ∃ x, decode c.fetchWord = .ok (.addI x) ∨ decode c.fetchWord = .ok (.ldF x)) ∧
    (¬ SameRandom c t → ∃ x nn, decode c.fetchWord = .ok (.rnd x nn))

/-- The flag register VF changes in no instruction but the six flag writers, one that names it as its `X` destination,
and a bulk load up to it; a flag writer that records no fault leaves 0 or 1 in it (10_state.md R22). -/
def Obligations.FlagWriters : Prop :=
  ∀ (i : Instr) (s t : State), exec i s = .next t →
    (t.reg 15#4 ≠ s.reg 15#4 →
      (∃ x y, i = .addReg x y ∨ i = .subReg x y ∨ i = .subn x y ∨ i = .shr x y ∨ i = .shl x y) ∨
      (∃ x y n, i = .drw x y n) ∨
      (∃ nn, i = .ldImm 15#4 nn ∨ i = .addImm 15#4 nn ∨ i = .rnd 15#4 nn) ∨
      (∃ y, i = .ldReg 15#4 y ∨ i = .orReg 15#4 y ∨ i = .andReg 15#4 y ∨ i = .xorReg 15#4 y) ∨
      i = .ldVxDt 15#4 ∨ i = .ldVxK 15#4 ∨ i = .load 15#4) ∧
    ((∃ x y, i = .addReg x y ∨ i = .subReg x y ∨ i = .subn x y ∨ i = .shr x y ∨ i = .shl x y) →
      t.reg 15#4 = 0#8 ∨ t.reg 15#4 = 1#8) ∧
    ((∃ x y n, i = .drw x y n) → s.Running → t.Running → t.reg 15#4 = 0#8 ∨ t.reg 15#4 = 1#8)

/-- A finished program stays finished: a cycle, pending or not, at a jump to itself changes nothing but clearing `drew` and
`wait` (40_cycle.md R132, the spec's decision D19). -/
def Obligations.FinishedStays : Prop :=
  ∀ s c : State, s.BeginsCycle c → c.Finished →
    ∃ t, step s = .next t ∧ EndAt c.pc t ∧ SameRegsExcept [] c t ∧ SameRest c t ∧ t.Finished

/-- A store is seen by the very next fetch (20_memory.md R76, an inference of the spec): after `LD [I],Vx` that stores at
the next instruction's address, the word fetched there is V0 and V1. -/
def Obligations.StoreSeenByNextFetch : Prop :=
  ∀ (s : State) (x : Nibble), s.Inv → s.pc.toNat ≤ 0xFFE → s.I = s.pc + 2#16 → 1 ≤ x.toNat →
    s.I.toNat + x.toNat ≤ 0xFFF → ∃ t, exec (.dump x) s = .next t ∧ t.fetchWord = s.reg 0#4 ++ s.reg 1#4

/-! ### The driver's operations and reset -/

/-- `TimerTick` (60_exceptions.md R255): both timers go down by one and stop at 0, in every state, halted and Waiting
alike, and nothing else changes. -/
def Obligations.TimerTickCountsDown : Prop :=
  ∀ (s : State) (rest : List DriverOp), s.driver = .timerTick :: rest →
    ∃ t, step s = .next t ∧ t.driver = rest ∧
      t.DT.toNat = s.DT.toNat - 1 ∧ t.ST.toNat = s.ST.toNat - 1 ∧
      SameRegsExcept [] s t ∧ SameIndex s t ∧ SameMemory s t ∧ SameStack s t ∧ SameDisplay s t ∧ SameKeys s t ∧
      SameFault s t ∧ SameRandom s t ∧ SameFlow s t ∧ t.params = s.params

/-- `KeyPress(k)` (60_exceptions.md R256): `key[k]` becomes 1, in every state, and nothing else changes, the latch
included. -/
def Obligations.KeyPressSetsKey : Prop :=
  ∀ (s : State) (k : Nibble) (rest : List DriverOp), s.driver = .keyPress k :: rest →
    ∃ t, step s = .next t ∧ t.driver = rest ∧
      t.keyDown k = true ∧ (∀ j, j ≠ k → t.keyDown j = s.keyDown j) ∧ t.latch = s.latch ∧
      SameRegsExcept [] s t ∧ SameIndex s t ∧ SameMemory s t ∧ SameStack s t ∧ SameTimers s t ∧ SameDisplay s t ∧
      SameFault s t ∧ SameRandom s t ∧ SameFlow s t ∧ t.params = s.params

/-- `KeyRelease(k)` (60_exceptions.md R257, the spec's decisions D7, D8): `key[k]` becomes 0 and the one latch is cleared,
whichever key it is and whether or not it was pressed; nothing else changes. -/
def Obligations.KeyReleaseClearsLatch : Prop :=
  ∀ (s : State) (k : Nibble) (rest : List DriverOp), s.driver = .keyRelease k :: rest →
    ∃ t, step s = .next t ∧ t.driver = rest ∧
      t.keyDown k = false ∧ (∀ j, j ≠ k → t.keyDown j = s.keyDown j) ∧ t.latch = false ∧
      SameRegsExcept [] s t ∧ SameIndex s t ∧ SameMemory s t ∧ SameStack s t ∧ SameTimers s t ∧ SameDisplay s t ∧
      SameFault s t ∧ SameRandom s t ∧ SameFlow s t ∧ t.params = s.params

/-- Reading the outputs (40_cycle.md R130; as an operation, decision D19, log 18): in every state, running, Waiting or
halted, it takes the operation off the queue and changes nothing; what is read is the display, `drew`, `wait`, the fault
registers, and `tone`, which is `ST > 0`. -/
def Obligations.ReadingOutputsChangesNothing : Prop :=
  ∀ (s : State) (rest : List DriverOp), s.driver = .readOutputs :: rest →
    step s = .next { s with driver := rest } ∧
    (∀ j, Display.pixel s.outputs.fb (j % 64) (j / 64) = s.fbBit j) ∧
    s.outputs.drew = s.drew ∧ s.outputs.wait = s.wait ∧ (s.outputs.tone = true ↔ 0 < s.ST.toNat) ∧
    s.outputs.fault = s.fault ∧ s.outputs.faultDetail = s.faultDetail ∧ s.outputs.faultPc = s.faultPc ∧
    s.outputs.faultWord = s.faultWord

/-- What reset leaves (10_state.md R39; the zero values are the spec's decisions D14, D15, log 6; the font bytes are the
parameter's default, 20_memory.md R62, log 5): every register, and every byte of memory. -/
def Obligations.ResetState : Prop :=
  State.reset.pc = 0x0200#16 ∧ State.reset.I = 0#16 ∧ State.reset.sp.val = 0 ∧
  (∀ r, State.reset.reg r = 0#8) ∧ (∀ j, State.reset.stackCell j = 0#16) ∧
  State.reset.DT = 0#8 ∧ State.reset.ST = 0#8 ∧ State.reset.tone = false ∧
  (∀ j, State.reset.fbBit j = false) ∧ (∀ k, State.reset.keyDown k = false) ∧
  State.reset.latch = false ∧ State.reset.wait = false ∧ State.reset.drew = false ∧
  State.reset.fault = 0#2 ∧ State.reset.faultDetail = 0#3 ∧ State.reset.faultPc = 0#16 ∧ State.reset.faultWord = 0#16 ∧
  (∀ a, a < 0x050 ∨ 0x0A0 ≤ a → State.reset.readByte a = 0#8) ∧
  (List.range 20).map (fun j => State.reset.readByte (0x050 + j)) =
    [0xF0#8, 0x90#8, 0x90#8, 0x90#8, 0xF0#8, 0x20#8, 0x60#8, 0x20#8, 0x20#8, 0x70#8,
     0xF0#8, 0x10#8, 0xF0#8, 0x80#8, 0xF0#8, 0xF0#8, 0x10#8, 0xF0#8, 0x10#8, 0xF0#8] ∧
  (List.range 20).map (fun j => State.reset.readByte (0x064 + j)) =
    [0x90#8, 0x90#8, 0xF0#8, 0x10#8, 0x10#8, 0xF0#8, 0x80#8, 0xF0#8, 0x10#8, 0xF0#8,
     0xF0#8, 0x80#8, 0xF0#8, 0x90#8, 0xF0#8, 0xF0#8, 0x10#8, 0x20#8, 0x40#8, 0x40#8] ∧
  (List.range 20).map (fun j => State.reset.readByte (0x078 + j)) =
    [0xF0#8, 0x90#8, 0xF0#8, 0x90#8, 0xF0#8, 0xF0#8, 0x90#8, 0xF0#8, 0x10#8, 0xF0#8,
     0xF0#8, 0x90#8, 0xF0#8, 0x90#8, 0x90#8, 0xE0#8, 0x90#8, 0xE0#8, 0x90#8, 0xE0#8] ∧
  (List.range 20).map (fun j => State.reset.readByte (0x08C + j)) =
    [0xF0#8, 0x80#8, 0x80#8, 0x80#8, 0xF0#8, 0xE0#8, 0x90#8, 0x90#8, 0x90#8, 0xE0#8,
     0xF0#8, 0x80#8, 0xF0#8, 0x80#8, 0xF0#8, 0xF0#8, 0x80#8, 0xF0#8, 0x80#8, 0x80#8]

/-- A program is loaded verbatim (70_reset_and_hazards.md R284): byte `p[j]` goes to 0x200 + j unchanged, the first
instruction is `p[0] ++ p[1]`, and a program of odd length is followed by zero. -/
def Obligations.ProgramLoadedVerbatim : Prop :=
  ∀ (s : State) (p : List Byte) (rest : List DriverOp), s.driver = .reset p :: rest → p.length ≤ 3584 →
    ∃ t, step s = .next t ∧
      (∀ j (h : j < p.length), t.readByte (0x200 + j) = p[j]) ∧
      (∀ b c q, p = b :: c :: q → t.pc = 0x0200#16 ∧ t.fetchWord = b ++ c) ∧
      (p.length % 2 = 1 → p.length < 3584 → t.readByte (0x200 + p.length) = 0#8)

/-- A reset with a program that fits creates every piece of state anew, from any state, halted or not
(70_reset_and_hazards.md R280, R281; the zero values are the spec's decisions D14, D15): outside the program memory reads
as the font parameter and zero; the parameters and the driver's pending inputs are not the CORE's and stay (log 3). -/
def Obligations.ResetCreatesState : Prop :=
  ∀ (s : State) (p : List Byte) (rest : List DriverOp), s.driver = .reset p :: rest → p.length ≤ 3584 →
    ∃ t, step s = .next t ∧ t.pc = 0x0200#16 ∧ t.I = 0#16 ∧ t.sp.val = 0 ∧
      (∀ r, t.reg r = 0#8) ∧ (∀ j, t.stackCell j = 0#16) ∧ t.DT = 0#8 ∧ t.ST = 0#8 ∧
      (∀ j, t.fbBit j = false) ∧ (∀ k, t.keyDown k = false) ∧ t.latch = false ∧ t.wait = false ∧ t.drew = false ∧
      t.fault = 0#2 ∧ t.faultDetail = 0#3 ∧ t.faultPc = 0#16 ∧ t.faultWord = 0#16 ∧
      (∀ j (h : j < 80), t.readByte (0x050 + j) = s.params.fontRom[j]) ∧
      (∀ a, a < 0x050 ∨ (0x0A0 ≤ a ∧ a < 0x200) ∨ 0x200 + p.length ≤ a → t.readByte a = 0#8) ∧
      SameRandom s t ∧ t.params = s.params ∧ t.driver = rest

/-- A program that is too long is refused (70_reset_and_hazards.md R283, the spec's decision D22; the zero values are its
decisions D14, D15): nothing of it is loaded, the CORE comes out halted with `LoadError`, and every other piece of state is
that of a reset with an empty program; the parameters and the driver's pending inputs are not the CORE's and stay
(log 3). -/
def Obligations.LongProgramRefused : Prop :=
  ∀ (s : State) (p : List Byte) (rest : List DriverOp), s.driver = .reset p :: rest → 3584 < p.length →
    ∃ t, step s = .next t ∧ t.fault = 3#2 ∧ t.faultDetail = 6#3 ∧ t.faultPc = 0#16 ∧ t.faultWord = 0#16 ∧
      ¬ t.Running ∧ t.pc = 0x0200#16 ∧ t.I = 0#16 ∧ t.sp.val = 0 ∧
      (∀ r, t.reg r = 0#8) ∧ (∀ j, t.stackCell j = 0#16) ∧ t.DT = 0#8 ∧ t.ST = 0#8 ∧
      (∀ j, t.fbBit j = false) ∧ (∀ k, t.keyDown k = false) ∧ t.latch = false ∧ t.wait = false ∧ t.drew = false ∧
      (∀ j (h : j < 80), t.readByte (0x050 + j) = s.params.fontRom[j]) ∧
      (∀ a, a < 0x050 ∨ 0x0A0 ≤ a → t.readByte a = 0#8) ∧
      SameRandom s t ∧ t.params = s.params ∧ t.driver = rest

/-! ### Control flow -/

/-- `SYS NNN` and `JP NNN` (41_control_flow.md R141, R142): encoding, target, and everything else unchanged. -/
def Obligations.JumpsGoToTarget : Prop :=
  ∀ (nnn : Addr12) (s : State),
    (nnn ≠ 0x0E0#12 → nnn ≠ 0x0EE#12 → decode (0x0#4 ++ nnn) = .ok (.sys nnn)) ∧
    decode (0x1#4 ++ nnn) = .ok (.jp nnn) ∧
    (∃ t, exec (.sys nnn) s = .next t ∧ t.pc.toNat = nnn.toNat ∧ EndAt t.pc t ∧ SameRegsExcept [] s t ∧ SameRest s t) ∧
    (∃ t, exec (.jp nnn) s = .next t ∧ t.pc.toNat = nnn.toNat ∧ EndAt t.pc t ∧ SameRegsExcept [] s t ∧ SameRest s t)

/-- `CALL NNN` (41_control_flow.md R143; the overflow policy is the spec's decision D2): it completes exactly when
`sp < 16`, pushing the post-fetch `pc`; at 16 it takes `MemoryFault(STACK_OVERFLOW)`, codes 2 and 4. -/
def Obligations.CallPushesReturn : Prop :=
  ∀ (nnn : Addr12) (s : State),
    (s.sp.val < 16 → ∃ t, exec (.call nnn) s = .next t ∧ EndAt (nnn.setWidth 16) t ∧ t.sp.val = s.sp.val + 1 ∧
      (∀ j : Nibble, t.stackCell j = if j.toNat = s.sp.val then s.pc + 2#16 else s.stackCell j) ∧
      SameRegsExcept [] s t ∧ SameIndex s t ∧ SameMemory s t ∧ SameTimers s t ∧ SameDisplay s t ∧ SameKeys s t ∧
      SameFault s t ∧ SameRandom s t ∧ SameOutside s t) ∧
    (s.sp.val = 16 → ∃ t, exec (.call nnn) s = .next t ∧ FaultTaken 2#2 4#3 s.pc (0x2#4 ++ nnn) s t)

/-- `RET` (41_control_flow.md R144; the underflow policy is the spec's decision D2): it completes exactly when `sp > 0`,
leaving the cells as they were; at 0 it takes `MemoryFault(STACK_UNDERFLOW)`, codes 2 and 5. -/
def Obligations.ReturnPops : Prop :=
  ∀ s : State,
    (∀ j : Nibble, s.sp.val = j.toNat + 1 → ∃ t, exec .ret s = .next t ∧ EndAt (s.stackCell j) t ∧
      t.sp.val = j.toNat ∧ (∀ k, t.stackCell k = s.stackCell k) ∧
      SameRegsExcept [] s t ∧ SameIndex s t ∧ SameMemory s t ∧ SameTimers s t ∧ SameDisplay s t ∧ SameKeys s t ∧
      SameFault s t ∧ SameRandom s t ∧ SameOutside s t) ∧
    (s.sp.val = 0 → ∃ t, exec .ret s = .next t ∧ FaultTaken 2#2 5#3 s.pc 0x00EE#16 s t)

/-- The source's round trip: a call and then a return at the same depth restore `pc` to the instruction after the call,
`sp`, and every cell but the one the call used; the return may come after any work that leaves the stack alone. -/
def Obligations.CallThenReturn : Prop :=
  ∀ (nnn : Addr12) (s t u v : State), s.sp.val ≤ 15 → exec (.call nnn) s = .next t → SameStack t u →
    exec .ret u = .next v →
    v.pc = s.pc + 2#16 ∧ v.sp = s.sp ∧ ∀ j : Nibble, j.toNat ≠ s.sp.val → v.stackCell j = s.stackCell j

/-- `SE Vx,NN` and `SNE Vx,NN` (41_control_flow.md R145, R146). -/
def Obligations.SkipsOnImmediate : Prop :=
  ∀ (x : Nibble) (nn : Byte) (s : State),
    decode (0x3#4 ++ x ++ nn) = .ok (.seImm x nn) ∧ decode (0x4#4 ++ x ++ nn) = .ok (.sneImm x nn) ∧
    (∃ t, exec (.seImm x nn) s = .next t ∧ EndAt (if s.reg x = nn then s.pc + 4#16 else s.pc + 2#16) t ∧
      SameRegsExcept [] s t ∧ SameRest s t) ∧
    (∃ t, exec (.sneImm x nn) s = .next t ∧ EndAt (if s.reg x = nn then s.pc + 2#16 else s.pc + 4#16) t ∧
      SameRegsExcept [] s t ∧ SameRest s t)

/-- `SE Vx,Vy` and `SNE Vx,Vy` (41_control_flow.md R147, R148). That every value of the low nibble is accepted, and kept in
the instruction, is the spec's own derivation in 30_encoding.md R99 and its decision D25 (log 14). -/
def Obligations.SkipsOnRegister : Prop :=
  ∀ (x y n : Nibble) (s : State),
    decode (0x5#4 ++ x ++ y ++ n) = .ok (.seReg x y n) ∧ decode (0x9#4 ++ x ++ y ++ n) = .ok (.sneReg x y n) ∧
    (∃ t, exec (.seReg x y n) s = .next t ∧ EndAt (if s.reg x = s.reg y then s.pc + 4#16 else s.pc + 2#16) t ∧
      SameRegsExcept [] s t ∧ SameRest s t) ∧
    (∃ t, exec (.sneReg x y n) s = .next t ∧ EndAt (if s.reg x = s.reg y then s.pc + 2#16 else s.pc + 4#16) t ∧
      SameRegsExcept [] s t ∧ SameRest s t)

/-- `JP V0,NNN` (41_control_flow.md R149; that the sum is not reduced is the spec's decision D21). -/
def Obligations.JumpWithOffset : Prop :=
  ∀ (nnn : Addr12) (s : State), decode (0xB#4 ++ nnn) = .ok (.jpV0 nnn) ∧
    ∃ t, exec (.jpV0 nnn) s = .next t ∧ t.pc.toNat = nnn.toNat + (s.reg 0#4).toNat ∧ EndAt t.pc t ∧
      SameRegsExcept [] s t ∧ SameRest s t

/-! ### Arithmetic and logic -/

/-- `LD Vx,NN`, `ADD Vx,NN`, `LD Vx,Vy` (42_arith_logic.md R162, R163, R164): the result as a number, and nothing else
changes, VF included unless it is the destination. -/
def Obligations.LoadsAndImmediateAdd : Prop :=
  ∀ (x y : Nibble) (nn : Byte) (s : State),
    decode (0x6#4 ++ x ++ nn) = .ok (.ldImm x nn) ∧ decode (0x7#4 ++ x ++ nn) = .ok (.addImm x nn) ∧
    decode (0x8#4 ++ x ++ y ++ 0x0#4) = .ok (.ldReg x y) ∧
    (∃ t, exec (.ldImm x nn) s = .next t ∧ t.reg x = nn ∧ SameRegsExcept [x] s t ∧ OrdinaryEnd s t ∧ SameRest s t) ∧
    (∃ t, exec (.addImm x nn) s = .next t ∧ (t.reg x).toNat = ((s.reg x).toNat + nn.toNat) % 256 ∧
      SameRegsExcept [x] s t ∧ OrdinaryEnd s t ∧ SameRest s t) ∧
    (∃ t, exec (.ldReg x y) s = .next t ∧ t.reg x = s.reg y ∧ SameRegsExcept [x] s t ∧ OrdinaryEnd s t ∧ SameRest s t)

/-- `OR`, `AND`, `XOR` (42_arith_logic.md R165, R166, R167), bit by bit; no flag. -/
def Obligations.LogicBitByBit : Prop :=
  ∀ (x y : Nibble) (s : State),
    decode (0x8#4 ++ x ++ y ++ 0x1#4) = .ok (.orReg x y) ∧ decode (0x8#4 ++ x ++ y ++ 0x2#4) = .ok (.andReg x y) ∧
    decode (0x8#4 ++ x ++ y ++ 0x3#4) = .ok (.xorReg x y) ∧
    (∃ t, exec (.orReg x y) s = .next t ∧
      (∀ k, k < 8 → (t.reg x).getLsbD k = ((s.reg x).getLsbD k || (s.reg y).getLsbD k)) ∧
      SameRegsExcept [x] s t ∧ OrdinaryEnd s t ∧ SameRest s t) ∧
    (∃ t, exec (.andReg x y) s = .next t ∧
      (∀ k, k < 8 → (t.reg x).getLsbD k = ((s.reg x).getLsbD k && (s.reg y).getLsbD k)) ∧
      SameRegsExcept [x] s t ∧ OrdinaryEnd s t ∧ SameRest s t) ∧
    (∃ t, exec (.xorReg x y) s = .next t ∧
      (∀ k, k < 8 → (t.reg x).getLsbD k = ((s.reg x).getLsbD k != (s.reg y).getLsbD k)) ∧
      SameRegsExcept [x] s t ∧ OrdinaryEnd s t ∧ SameRest s t)

/-- `ADD Vx,Vy` (42_arith_logic.md R168): the sum modulo 256, VF the carry; with `X = 15` the flag wins. -/
def Obligations.AddWithCarryOut : Prop :=
  ∀ (x y : Nibble) (s : State), decode (0x8#4 ++ x ++ y ++ 0x4#4) = .ok (.addReg x y) ∧
    ∃ t, exec (.addReg x y) s = .next t ∧
      (x ≠ 15#4 → (t.reg x).toNat = ((s.reg x).toNat + (s.reg y).toNat) % 256) ∧
      (t.reg 15#4 = if 255 < (s.reg x).toNat + (s.reg y).toNat then 1#8 else 0#8) ∧
      SameRegsExcept [x, 15#4] s t ∧ OrdinaryEnd s t ∧ SameRest s t

/-- `SUB Vx,Vy` and `SUBN Vx,Vy` (42_arith_logic.md R169, R171): the difference modulo 256, VF the not-borrow. -/
def Obligations.SubtractNotBorrow : Prop :=
  ∀ (x y : Nibble) (s : State),
    decode (0x8#4 ++ x ++ y ++ 0x5#4) = .ok (.subReg x y) ∧ decode (0x8#4 ++ x ++ y ++ 0x7#4) = .ok (.subn x y) ∧
    (∃ t, exec (.subReg x y) s = .next t ∧
      (x ≠ 15#4 → ((t.reg x).toNat : Int) = (((s.reg x).toNat : Int) - (s.reg y).toNat) % 256) ∧
      (t.reg 15#4 = if (s.reg y).toNat ≤ (s.reg x).toNat then 1#8 else 0#8) ∧
      SameRegsExcept [x, 15#4] s t ∧ OrdinaryEnd s t ∧ SameRest s t) ∧
    (∃ t, exec (.subn x y) s = .next t ∧
      (x ≠ 15#4 → ((t.reg x).toNat : Int) = (((s.reg y).toNat : Int) - (s.reg x).toNat) % 256) ∧
      (t.reg 15#4 = if (s.reg x).toNat ≤ (s.reg y).toNat then 1#8 else 0#8) ∧
      SameRegsExcept [x, 15#4] s t ∧ OrdinaryEnd s t ∧ SameRest s t)

/-- `SHR` and `SHL` (42_arith_logic.md R170, R172) under both values of the parameter `SHIFT_SRC` (decision D9, log 5): `S`
is `X` or `Y` as it says. -/
def Obligations.ShiftsByOne : Prop :=
  ∀ (x y : Nibble) (s : State) (src : Nibble),
    ((s.params.shiftSrc = .x ∧ src = x) ∨ (s.params.shiftSrc = .y ∧ src = y)) →
    decode (0x8#4 ++ x ++ y ++ 0x6#4) = .ok (.shr x y) ∧ decode (0x8#4 ++ x ++ y ++ 0xE#4) = .ok (.shl x y) ∧
    (∃ t, exec (.shr x y) s = .next t ∧
      (x ≠ 15#4 → (t.reg x).toNat = (s.reg src).toNat / 2) ∧ ((t.reg 15#4).toNat = (s.reg src).toNat % 2) ∧
      SameRegsExcept [x, 15#4] s t ∧ OrdinaryEnd s t ∧ SameRest s t) ∧
    (∃ t, exec (.shl x y) s = .next t ∧
      (x ≠ 15#4 → (t.reg x).toNat = (s.reg src).toNat * 2 % 256) ∧ ((t.reg 15#4).toNat = (s.reg src).toNat / 128) ∧
      SameRegsExcept [x, 15#4] s t ∧ OrdinaryEnd s t ∧ SameRest s t)

/-- `RND Vx,NN` (42_arith_logic.md R173; the random byte is a free draw, decision D17, log 4): whatever byte `r` the driver
has supplied next, the result is `r and NN` and `r` is read once; with none supplied the byte is free and the result is
still a subset of the mask. -/
def Obligations.RandomMasked : Prop :=
  ∀ (x : Nibble) (nn : Byte) (s : State), decode (0xC#4 ++ x ++ nn) = .ok (.rnd x nn) ∧
    ∃ t, exec (.rnd x nn) s = .next t ∧
      (∀ r rest, s.rndIn = r :: rest → t.reg x = r &&& nn ∧ t.rndIn = rest ∧ t.draws = s.draws) ∧
      (s.rndIn = [] → (∀ k, (t.reg x).getLsbD k = true → nn.getLsbD k = true) ∧ t.rndIn = [] ∧ t.draws = s.draws + 1) ∧
      SameRegsExcept [x] s t ∧ OrdinaryEnd s t ∧ SameIndex s t ∧ SameMemory s t ∧ SameStack s t ∧ SameTimers s t ∧
      SameDisplay s t ∧ SameKeys s t ∧ SameFault s t ∧ SameOutside s t

/-! ### Display -/

/-- `CLS` (43_display.md R191): every pixel unset, VF and everything else unchanged, no draw signalled. -/
def Obligations.ClearDisplay : Prop :=
  ∀ s : State, decode 0x00E0#16 = .ok .cls ∧
    ∃ t, exec .cls s = .next t ∧ (∀ j, t.fbBit j = false) ∧ SameRegsExcept [] s t ∧ OrdinaryEnd s t ∧
      SameIndex s t ∧ SameMemory s t ∧ SameStack s t ∧ SameTimers s t ∧ SameKeys s t ∧ SameFault s t ∧ SameRandom s t ∧
      SameOutside s t

/-- `DRW Vx,Vy,N` when its rows are in the memory or there are none (43_display.md R192; `N = 0` is the spec's decision
D23): the pixel at column `px` and row `py` is inverted exactly when the sprite bit that falls on it, columns and rows
wrapping each by itself, is 1; VF is 1 exactly when some pixel went from set to unset. -/
def Obligations.DrawXorsSprite : Prop :=
  ∀ (x y n : Nibble) (s : State), n = 0#4 ∨ s.I.toNat + n.toNat - 1 ≤ 0xFFF →
    decode (0xD#4 ++ x ++ y ++ n) = .ok (.drw x y n) ∧
    ∃ t, exec (.drw x y n) s = .next t ∧
      (∀ px py, px < 64 → py < 32 →
        let r := (py + 32 - (s.reg y).toNat % 32) % 32
        let c := (px + 64 - (s.reg x).toNat % 64) % 64
        t.fbBit (py * 64 + px) =
          (s.fbBit (py * 64 + px) !=
            (decide (r < n.toNat) && decide (c < 8) && (s.readByte (s.I.toNat + r)).getLsbD (7 - c)))) ∧
      (t.reg 15#4 = 0#8 ∨ t.reg 15#4 = 1#8) ∧
      (t.reg 15#4 = 1#8 ↔ ∃ j, j < 2048 ∧ s.fbBit j = true ∧ t.fbBit j = false) ∧
      t.pc = s.pc + 2#16 ∧ t.drew = true ∧ t.wait = false ∧
      SameRegsExcept [15#4] s t ∧ SameIndex s t ∧ SameMemory s t ∧ SameStack s t ∧ SameTimers s t ∧ SameKeys s t ∧
      SameFault s t ∧ SameRandom s t ∧ SameOutside s t

/-- `DRW` with a row outside the memory takes `MemoryFault(DATA_READ)`, codes 2 and 2, before any pixel is changed (the
spec's decisions D1, D3). -/
def Obligations.DrawPastEndFaults : Prop :=
  ∀ (x y n : Nibble) (s : State), n ≠ 0#4 → 0xFFF < s.I.toNat + n.toNat - 1 →
    ∃ t, exec (.drw x y n) s = .next t ∧ FaultTaken 2#2 2#3 s.pc (0xD#4 ++ x ++ y ++ n) s t

/-- Drawing the same sprite twice in a row at the same place restores every pixel, and the second draw's flag is 1 exactly
when the first one set some pixel that was unset: what follows from the pseudocode of 43_display.md R192 in place of its
corner case (d) as worded (log 20); no row at all is the spec's decision D23. With `X` or `Y = 15` the first draw's flag
moves the second, so that form is stated in `RedrawRestores`. -/
def Obligations.DrawTwiceRestores : Prop :=
  ∀ (x y n : Nibble) (s t u : State), x ≠ 15#4 → y ≠ 15#4 → n = 0#4 ∨ s.I.toNat + n.toNat - 1 ≤ 0xFFF →
    exec (.drw x y n) s = .next t → exec (.drw x y n) t = .next u →
    SameDisplay s u ∧ (u.reg 15#4 = 1#8 ↔ ∃ j, j < 2048 ∧ s.fbBit j = false ∧ t.fbBit j = true)

/-- The same for every `X` and `Y`, 15 included: any later draw of the same sprite bytes on the display the first draw left,
whose coordinate registers give the same place (log 20; decision D23). -/
def Obligations.RedrawRestores : Prop :=
  ∀ (x y n x' y' : Nibble) (s t u v : State), n = 0#4 ∨ s.I.toNat + n.toNat - 1 ≤ 0xFFF →
    exec (.drw x y n) s = .next t → SameDisplay t u → SameIndex s u →
    (∀ r, r < n.toNat → u.readByte (s.I.toNat + r) = s.readByte (s.I.toNat + r)) →
    (u.reg x').toNat % 64 = (s.reg x).toNat % 64 → (u.reg y').toNat % 32 = (s.reg y).toNat % 32 →
    exec (.drw x' y' n) u = .next v →
    SameDisplay s v ∧ (v.reg 15#4 = 1#8 ↔ ∃ j, j < 2048 ∧ s.fbBit j = false ∧ t.fbBit j = true)

/-- The spec's corner case (d) of `DRW` read literally: the second of two equal draws sets VF whenever the sprite has a
set bit. It fails when the sprite's bits fell on set pixels (log 20). -/
def Obligations.SecondDrawAlwaysCollides : Prop :=
  ∀ (x y n : Nibble) (s t u : State), x ≠ 15#4 → y ≠ 15#4 → s.I.toNat + n.toNat - 1 ≤ 0xFFF →
    (∃ r, r < n.toNat ∧ s.readByte (s.I.toNat + r) ≠ 0#8) →
    exec (.drw x y n) s = .next t → exec (.drw x y n) t = .next u → u.reg 15#4 = 1#8

/-! ### Timers and keys -/

/-- `LD Vx,DT`, `LD DT,Vx`, `LD ST,Vx` (44_timer_key.md R200, R201, R202); the `tone` output follows `ST` at once. -/
def Obligations.TimerTransfers : Prop :=
  ∀ (x : Nibble) (s : State),
    decode (0xF#4 ++ x ++ 0x07#8) = .ok (.ldVxDt x) ∧ decode (0xF#4 ++ x ++ 0x15#8) = .ok (.ldDtVx x) ∧
    decode (0xF#4 ++ x ++ 0x18#8) = .ok (.ldStVx x) ∧
    (∃ t, exec (.ldVxDt x) s = .next t ∧ t.reg x = s.DT ∧ SameRegsExcept [x] s t ∧ OrdinaryEnd s t ∧ SameRest s t) ∧
    (∃ t, exec (.ldDtVx x) s = .next t ∧ t.DT = s.reg x ∧ t.ST = s.ST ∧ SameRegsExcept [] s t ∧ OrdinaryEnd s t ∧
      SameIndex s t ∧ SameMemory s t ∧ SameStack s t ∧ SameDisplay s t ∧ SameKeys s t ∧ SameFault s t ∧
      SameRandom s t ∧ SameOutside s t) ∧
    (∃ t, exec (.ldStVx x) s = .next t ∧ t.ST = s.reg x ∧ (t.tone = true ↔ s.reg x ≠ 0#8) ∧ t.DT = s.DT ∧
      SameRegsExcept [] s t ∧ OrdinaryEnd s t ∧ SameIndex s t ∧ SameMemory s t ∧ SameStack s t ∧ SameDisplay s t ∧
      SameKeys s t ∧ SameFault s t ∧ SameRandom s t ∧ SameOutside s t)

/-- No instruction reads the sound timer (44_timer_key.md R202): with another value in `ST` every instruction but
`LD ST,Vx` does the same, faults included, and leaves that other value; `LD ST,Vx` does not depend on the old value. -/
def Obligations.NoInstructionReadsST : Prop :=
  ∀ (i : Instr) (s t : State) (v : Byte), exec i s = .next t →
    ((∃ x, i = .ldStVx x) → exec i { s with ST := v } = .next t) ∧
    ((∀ x, i ≠ .ldStVx x) → exec i { s with ST := v } = .next { t with ST := v })

/-- `LD Vx,K` completes, in Running and Waiting alike, when the latch is clear and a key is pressed (44_timer_key.md R203,
the spec's decision D7): the least pressed key goes to `x[X]` and the latch is raised. -/
def Obligations.KeyWaitCompletes : Prop :=
  ∀ (x k : Nibble) (s : State), s.latch = false → s.keyDown k = true → (∀ j, j.toNat < k.toNat → s.keyDown j = false) →
    decode (0xF#4 ++ x ++ 0x0A#8) = .ok (.ldVxK x) ∧
    ∃ t, exec (.ldVxK x) s = .next t ∧ (t.reg x).toNat = k.toNat ∧ t.latch = true ∧ SameRegsExcept [x] s t ∧
      OrdinaryEnd s t ∧ (∀ j, t.keyDown j = s.keyDown j) ∧ SameIndex s t ∧ SameMemory s t ∧ SameStack s t ∧
      SameTimers s t ∧ SameDisplay s t ∧ SameFault s t ∧ SameRandom s t ∧ SameOutside s t

/-- `LD Vx,K` stalls while the latch is set or no key is pressed (44_timer_key.md R203): `pc` stays at the instruction,
`wait` is 1, nothing else changes. -/
def Obligations.KeyWaitStalls : Prop :=
  ∀ (x : Nibble) (s : State), s.latch = true ∨ (∀ k, s.keyDown k = false) →
    ∃ t, exec (.ldVxK x) s = .next t ∧ t.pc = s.pc ∧ t.wait = true ∧ t.drew = false ∧ SameRegsExcept [] s t ∧ SameRest s t

/-- A stalled key wait repeats (20_memory.md R78, an inference of the spec; 40_cycle.md R128, its decision of replay): the
state after a stalled cycle is one that the next cycle does not change at all. -/
def Obligations.StalledWaitIsFixed : Prop :=
  ∀ (s t : State) (x : Nibble), s.Running → s.driver = [] → s.pc.toNat ≤ 0xFFE → decode s.fetchWord = .ok (.ldVxK x) →
    s.latch = true ∨ (∀ k, s.keyDown k = false) → step s = .next t → step t = .next t

/-- `SKP Vx` and `SKNP Vx` (44_timer_key.md R204, R205; the low nibble is the spec's decision D12): on the level of the
key, whatever the latch. -/
def Obligations.SkipsOnKey : Prop :=
  ∀ (x k : Nibble) (s : State), (s.reg x).toNat % 16 = k.toNat →
    decode (0xE#4 ++ x ++ 0x9E#8) = .ok (.skp x) ∧ decode (0xE#4 ++ x ++ 0xA1#8) = .ok (.sknp x) ∧
    (∃ t, exec (.skp x) s = .next t ∧ EndAt (if s.keyDown k = true then s.pc + 4#16 else s.pc + 2#16) t ∧
      SameRegsExcept [] s t ∧ SameRest s t) ∧
    (∃ t, exec (.sknp x) s = .next t ∧ EndAt (if s.keyDown k = true then s.pc + 2#16 else s.pc + 4#16) t ∧
      SameRegsExcept [] s t ∧ SameRest s t)

/-! ### Index register and memory transfer -/

/-- `LD I,NNN`, `ADD I,Vx`, `LD F,Vx` (45_memory_index.md R221, R222, R223; the spec's decisions D11, D13): the new `I` as a
number; VF and everything else unchanged. -/
def Obligations.IndexLoads : Prop :=
  ∀ (x : Nibble) (nnn : Addr12) (s : State),
    decode (0xA#4 ++ nnn) = .ok (.ldI nnn) ∧ decode (0xF#4 ++ x ++ 0x1E#8) = .ok (.addI x) ∧
    decode (0xF#4 ++ x ++ 0x29#8) = .ok (.ldF x) ∧
    (∃ t, exec (.ldI nnn) s = .next t ∧ t.I.toNat = nnn.toNat ∧ SameRegsExcept [] s t ∧ OrdinaryEnd s t ∧
      SameMemory s t ∧ SameStack s t ∧ SameTimers s t ∧ SameDisplay s t ∧ SameKeys s t ∧ SameFault s t ∧ SameRandom s t ∧
      SameOutside s t) ∧
    (∃ t, exec (.addI x) s = .next t ∧ t.I.toNat = (s.I.toNat + (s.reg x).toNat) % 65536 ∧ SameRegsExcept [] s t ∧
      OrdinaryEnd s t ∧ SameMemory s t ∧ SameStack s t ∧ SameTimers s t ∧ SameDisplay s t ∧ SameKeys s t ∧ SameFault s t ∧
      SameRandom s t ∧ SameOutside s t) ∧
    (∃ t, exec (.ldF x) s = .next t ∧ t.I.toNat = 0x050 + 5 * ((s.reg x).toNat % 16) ∧ SameRegsExcept [] s t ∧
      OrdinaryEnd s t ∧ SameMemory s t ∧ SameStack s t ∧ SameTimers s t ∧ SameDisplay s t ∧ SameKeys s t ∧ SameFault s t ∧
      SameRandom s t ∧ SameOutside s t)

/-- `LD B,Vx` with its three bytes in the memory (45_memory_index.md R224; `I` unchanged is the spec's decision D10): the
digits make up the value, hundreds first. -/
def Obligations.BcdStores : Prop :=
  ∀ (x : Nibble) (s : State), Memory.wf s.params.fontRom s.mem → s.I.toNat + 2 ≤ 0xFFF →
    decode (0xF#4 ++ x ++ 0x33#8) = .ok (.ldB x) ∧
    ∃ t, exec (.ldB x) s = .next t ∧
      (t.readByte s.I.toNat).toNat * 100 + (t.readByte (s.I.toNat + 1)).toNat * 10 +
        (t.readByte (s.I.toNat + 2)).toNat = (s.reg x).toNat ∧
      (t.readByte (s.I.toNat + 1)).toNat ≤ 9 ∧ (t.readByte (s.I.toNat + 2)).toNat ≤ 9 ∧
      (∀ a, a < s.I.toNat ∨ s.I.toNat + 3 ≤ a → t.readByte a = s.readByte a) ∧
      SameRegsExcept [] s t ∧ OrdinaryEnd s t ∧ SameIndex s t ∧ SameStack s t ∧ SameTimers s t ∧ SameDisplay s t ∧
      SameKeys s t ∧ SameFault s t ∧ SameRandom s t ∧ SameOutside s t

/-- `LD [I],Vx` with its bytes in the memory (45_memory_index.md R225; `I` unchanged is the spec's decision D10). -/
def Obligations.DumpStores : Prop :=
  ∀ (x : Nibble) (s : State), Memory.wf s.params.fontRom s.mem → s.I.toNat + x.toNat ≤ 0xFFF →
    decode (0xF#4 ++ x ++ 0x55#8) = .ok (.dump x) ∧
    ∃ t, exec (.dump x) s = .next t ∧
      (∀ r : Nibble, r.toNat ≤ x.toNat → t.readByte (s.I.toNat + r.toNat) = s.reg r) ∧
      (∀ a, a < s.I.toNat ∨ s.I.toNat + x.toNat + 1 ≤ a → t.readByte a = s.readByte a) ∧
      SameRegsExcept [] s t ∧ OrdinaryEnd s t ∧ SameIndex s t ∧ SameStack s t ∧ SameTimers s t ∧ SameDisplay s t ∧
      SameKeys s t ∧ SameFault s t ∧ SameRandom s t ∧ SameOutside s t

/-- `LD Vx,[I]` with its bytes in the memory (45_memory_index.md R226; `I` unchanged is the spec's decision D10): the
registers above `X` keep their values. -/
def Obligations.LoadFills : Prop :=
  ∀ (x : Nibble) (s : State), s.I.toNat + x.toNat ≤ 0xFFF →
    decode (0xF#4 ++ x ++ 0x65#8) = .ok (.load x) ∧
    ∃ t, exec (.load x) s = .next t ∧
      (∀ r : Nibble, t.reg r = if r.toNat ≤ x.toNat then s.readByte (s.I.toNat + r.toNat) else s.reg r) ∧
      OrdinaryEnd s t ∧ SameRest s t

/-- `LD B,Vx`, `LD [I],Vx` and `LD Vx,[I]` with a byte outside the memory take `MemoryFault`, detail `DATA_WRITE` or
`DATA_READ`, before any byte or register is written (the spec's decisions D1, D3). -/
def Obligations.TransfersPastEndFault : Prop :=
  ∀ (x : Nibble) (s : State),
    (0xFFF < s.I.toNat + 2 → ∃ t, exec (.ldB x) s = .next t ∧ FaultTaken 2#2 3#3 s.pc (0xF#4 ++ x ++ 0x33#8) s t) ∧
    (0xFFF < s.I.toNat + x.toNat → ∃ t, exec (.dump x) s = .next t ∧
      FaultTaken 2#2 3#3 s.pc (0xF#4 ++ x ++ 0x55#8) s t) ∧
    (0xFFF < s.I.toNat + x.toNat → ∃ t, exec (.load x) s = .next t ∧
      FaultTaken 2#2 2#3 s.pc (0xF#4 ++ x ++ 0x65#8) s t)

/-- A dump followed by a load with the same `X` and `I` leaves all state as after the dump, `pc` apart. -/
def Obligations.DumpThenLoad : Prop :=
  ∀ (x : Nibble) (s t u : State), Memory.wf s.params.fontRom s.mem → s.I.toNat + x.toNat ≤ 0xFFF →
    exec (.dump x) s = .next t → exec (.load x) t = .next u →
    SameRegsExcept [] t u ∧ SameRest t u ∧ t.pc = s.pc + 2#16 ∧ u.pc = s.pc + 4#16 ∧ u.drew = false ∧ u.wait = false
end

