-- ==== Sys2Proof/Laws/Decode.lean ====
section
/-! SUPPORT. Laws/Decode.lean: the fields of a word and the words of the formats as numbers (30_encoding.md R91, R92), and
each field of each format. -/

namespace Sys2Proof

theorem fOp_toNat (w : Word) : (fOp w).toNat = w.toNat / 4096 := by
  have := w.isLt
  simp only [fOp, BitVec.extractLsb'_toNat, Nat.shiftRight_eq_div_pow]
  omega

theorem fX_toNat (w : Word) : (fX w).toNat = w.toNat / 256 % 16 := by
  simp only [fX, BitVec.extractLsb'_toNat, Nat.shiftRight_eq_div_pow, Nat.reducePow]

theorem fY_toNat (w : Word) : (fY w).toNat = w.toNat / 16 % 16 := by
  simp only [fY, BitVec.extractLsb'_toNat, Nat.shiftRight_eq_div_pow, Nat.reducePow]

theorem fN_toNat (w : Word) : (fN w).toNat = w.toNat % 16 := by
  simp [fN, BitVec.extractLsb'_toNat]

theorem fNN_toNat (w : Word) : (fNN w).toNat = w.toNat % 256 := by
  simp [fNN, BitVec.extractLsb'_toNat]

theorem fNNN_toNat (w : Word) : (fNNN w).toNat = w.toNat % 4096 := by
  simp [fNNN, BitVec.extractLsb'_toNat]

/-- Concatenation, high part first, as a number (00_scope.md R6). -/
theorem append_toNat {m n : Nat} (a : BitVec m) (b : BitVec n) : (a ++ b).toNat = a.toNat * 2 ^ n + b.toNat := by
  rw [BitVec.toNat_append, ← Nat.shiftLeft_add_eq_or_of_lt b.isLt, Nat.shiftLeft_eq]

theorem fmtNNN_toNat (op : Nibble) (nnn : Addr12) : (fmtNNN op nnn).toNat = op.toNat * 4096 + nnn.toNat :=
  append_toNat op nnn

theorem fmtXNN_toNat (op x : Nibble) (nn : Byte) :
    (fmtXNN op x nn).toNat = op.toNat * 4096 + x.toNat * 256 + nn.toNat := by
  have h := append_toNat (op ++ x) nn
  rw [append_toNat op x] at h
  refine Eq.trans h ?_
  omega

theorem fmtXYN_toNat (op x y n : Nibble) :
    (fmtXYN op x y n).toNat = op.toNat * 4096 + x.toNat * 256 + y.toNat * 16 + n.toNat := by
  have h := append_toNat (op ++ x ++ y) n
  rw [append_toNat (op ++ x) y, append_toNat op x] at h
  refine Eq.trans h ?_
  omega

section
variable (op x y n : Nibble) (nn : Byte) (nnn : Addr12)

@[simp] theorem fOp_fmtNNN : fOp (fmtNNN op nnn) = op := by
  have := nnn.isLt
  apply BitVec.eq_of_toNat_eq; rw [fOp_toNat, fmtNNN_toNat]; omega
@[simp] theorem fNNN_fmtNNN : fNNN (fmtNNN op nnn) = nnn := by
  have := nnn.isLt
  apply BitVec.eq_of_toNat_eq; rw [fNNN_toNat, fmtNNN_toNat]; omega
@[simp] theorem fOp_fmtXNN : fOp (fmtXNN op x nn) = op := by
  have := nn.isLt; have := x.isLt
  apply BitVec.eq_of_toNat_eq; rw [fOp_toNat, fmtXNN_toNat]; omega
@[simp] theorem fX_fmtXNN : fX (fmtXNN op x nn) = x := by
  have := nn.isLt; have := x.isLt
  apply BitVec.eq_of_toNat_eq; rw [fX_toNat, fmtXNN_toNat]; omega
@[simp] theorem fNN_fmtXNN : fNN (fmtXNN op x nn) = nn := by
  have := nn.isLt; have := x.isLt
  apply BitVec.eq_of_toNat_eq; rw [fNN_toNat, fmtXNN_toNat]; omega
@[simp] theorem fOp_fmtXYN : fOp (fmtXYN op x y n) = op := by
  have := n.isLt; have := x.isLt; have := y.isLt
  apply BitVec.eq_of_toNat_eq; rw [fOp_toNat, fmtXYN_toNat]; omega
@[simp] theorem fX_fmtXYN : fX (fmtXYN op x y n) = x := by
  have := n.isLt; have := x.isLt; have := y.isLt
  apply BitVec.eq_of_toNat_eq; rw [fX_toNat, fmtXYN_toNat]; omega
@[simp] theorem fY_fmtXYN : fY (fmtXYN op x y n) = y := by
  have := n.isLt; have := x.isLt; have := y.isLt
  apply BitVec.eq_of_toNat_eq; rw [fY_toNat, fmtXYN_toNat]; omega
@[simp] theorem fN_fmtXYN : fN (fmtXYN op x y n) = n := by
  have := n.isLt; have := x.isLt; have := y.isLt
  apply BitVec.eq_of_toNat_eq; rw [fN_toNat, fmtXYN_toNat]; omega

end

/-- A word is the word of its fields, in every format. -/
theorem fmtNNN_fields (w : Word) : fmtNNN (fOp w) (fNNN w) = w := by
  apply BitVec.eq_of_toNat_eq; rw [fmtNNN_toNat, fOp_toNat, fNNN_toNat]; omega

theorem fmtXNN_fields (w : Word) : fmtXNN (fOp w) (fX w) (fNN w) = w := by
  apply BitVec.eq_of_toNat_eq; rw [fmtXNN_toNat, fOp_toNat, fX_toNat, fNN_toNat]; omega

theorem fmtXYN_fields (w : Word) : fmtXYN (fOp w) (fX w) (fY w) (fN w) = w := by
  apply BitVec.eq_of_toNat_eq; rw [fmtXYN_toNat, fOp_toNat, fX_toNat, fY_toNat, fN_toNat]; omega

/-- The two bytes of a word give the word back (20_memory.md R67). -/
@[simp] theorem wordOfBytes_hi_lo (w : Word) : wordOfBytes (hiByte w) (loByte w) = w := by
  have := w.isLt
  apply BitVec.eq_of_toNat_eq
  refine Eq.trans (append_toNat (hiByte w) (loByte w)) ?_
  simp only [hiByte, loByte, BitVec.extractLsb'_toNat, Nat.shiftRight_eq_div_pow, Nat.pow_zero, Nat.div_one]
  omega

end Sys2Proof
end

