-- ==== Sys2Proof/Laws/State.lean ====
section
/-! SUPPORT. Laws/State.lean: one lemma per field per named update of State, so that no proof unfolds one. -/

namespace Sys2Proof.Machine

variable (s : State)

/-! ### A register write: `setReg` -/

@[simp] theorem State.setReg_mem (r : Nibble) (v : Byte) : (s.setReg r v).mem = s.mem := rfl
@[simp] theorem State.setReg_x (r : Nibble) (v : Byte) : (s.setReg r v).x = s.x.set r.toNat v r.isLt := rfl
@[simp] theorem State.setReg_I (r : Nibble) (v : Byte) : (s.setReg r v).I = s.I := rfl
@[simp] theorem State.setReg_pc (r : Nibble) (v : Byte) : (s.setReg r v).pc = s.pc := rfl
@[simp] theorem State.setReg_stack (r : Nibble) (v : Byte) : (s.setReg r v).stack = s.stack := rfl
@[simp] theorem State.setReg_sp (r : Nibble) (v : Byte) : (s.setReg r v).sp = s.sp := rfl
@[simp] theorem State.setReg_DT (r : Nibble) (v : Byte) : (s.setReg r v).DT = s.DT := rfl
@[simp] theorem State.setReg_ST (r : Nibble) (v : Byte) : (s.setReg r v).ST = s.ST := rfl
@[simp] theorem State.setReg_fb (r : Nibble) (v : Byte) : (s.setReg r v).fb = s.fb := rfl
@[simp] theorem State.setReg_key (r : Nibble) (v : Byte) : (s.setReg r v).key = s.key := rfl
@[simp] theorem State.setReg_latch (r : Nibble) (v : Byte) : (s.setReg r v).latch = s.latch := rfl
@[simp] theorem State.setReg_wait (r : Nibble) (v : Byte) : (s.setReg r v).wait = s.wait := rfl
@[simp] theorem State.setReg_drew (r : Nibble) (v : Byte) : (s.setReg r v).drew = s.drew := rfl
@[simp] theorem State.setReg_fault (r : Nibble) (v : Byte) : (s.setReg r v).fault = s.fault := rfl
@[simp] theorem State.setReg_faultDetail (r : Nibble) (v : Byte) : (s.setReg r v).faultDetail = s.faultDetail := rfl
@[simp] theorem State.setReg_faultPc (r : Nibble) (v : Byte) : (s.setReg r v).faultPc = s.faultPc := rfl
@[simp] theorem State.setReg_faultWord (r : Nibble) (v : Byte) : (s.setReg r v).faultWord = s.faultWord := rfl
@[simp] theorem State.setReg_params (r : Nibble) (v : Byte) : (s.setReg r v).params = s.params := rfl
@[simp] theorem State.setReg_rndIn (r : Nibble) (v : Byte) : (s.setReg r v).rndIn = s.rndIn := rfl
@[simp] theorem State.setReg_draws (r : Nibble) (v : Byte) : (s.setReg r v).draws = s.draws := rfl
@[simp] theorem State.setReg_driver (r : Nibble) (v : Byte) : (s.setReg r v).driver = s.driver := rfl

/-! ### A result and flag write: `setRegFlag` -/

@[simp] theorem State.setRegFlag_mem (r : Nibble) (v : Byte) (f : Bool) : (s.setRegFlag r v f).mem = s.mem := rfl
@[simp] theorem State.setRegFlag_I (r : Nibble) (v : Byte) (f : Bool) : (s.setRegFlag r v f).I = s.I := rfl
@[simp] theorem State.setRegFlag_pc (r : Nibble) (v : Byte) (f : Bool) : (s.setRegFlag r v f).pc = s.pc := rfl
@[simp] theorem State.setRegFlag_stack (r : Nibble) (v : Byte) (f : Bool) : (s.setRegFlag r v f).stack = s.stack := rfl
@[simp] theorem State.setRegFlag_sp (r : Nibble) (v : Byte) (f : Bool) : (s.setRegFlag r v f).sp = s.sp := rfl
@[simp] theorem State.setRegFlag_DT (r : Nibble) (v : Byte) (f : Bool) : (s.setRegFlag r v f).DT = s.DT := rfl
@[simp] theorem State.setRegFlag_ST (r : Nibble) (v : Byte) (f : Bool) : (s.setRegFlag r v f).ST = s.ST := rfl
@[simp] theorem State.setRegFlag_fb (r : Nibble) (v : Byte) (f : Bool) : (s.setRegFlag r v f).fb = s.fb := rfl
@[simp] theorem State.setRegFlag_key (r : Nibble) (v : Byte) (f : Bool) : (s.setRegFlag r v f).key = s.key := rfl
@[simp] theorem State.setRegFlag_latch (r : Nibble) (v : Byte) (f : Bool) : (s.setRegFlag r v f).latch = s.latch := rfl
@[simp] theorem State.setRegFlag_wait (r : Nibble) (v : Byte) (f : Bool) : (s.setRegFlag r v f).wait = s.wait := rfl
@[simp] theorem State.setRegFlag_drew (r : Nibble) (v : Byte) (f : Bool) : (s.setRegFlag r v f).drew = s.drew := rfl
@[simp] theorem State.setRegFlag_fault (r : Nibble) (v : Byte) (f : Bool) : (s.setRegFlag r v f).fault = s.fault := rfl
@[simp] theorem State.setRegFlag_faultDetail (r : Nibble) (v : Byte) (f : Bool) :
    (s.setRegFlag r v f).faultDetail = s.faultDetail := rfl
@[simp] theorem State.setRegFlag_faultPc (r : Nibble) (v : Byte) (f : Bool) :
    (s.setRegFlag r v f).faultPc = s.faultPc := rfl
@[simp] theorem State.setRegFlag_faultWord (r : Nibble) (v : Byte) (f : Bool) :
    (s.setRegFlag r v f).faultWord = s.faultWord := rfl
@[simp] theorem State.setRegFlag_params (r : Nibble) (v : Byte) (f : Bool) :
    (s.setRegFlag r v f).params = s.params := rfl
@[simp] theorem State.setRegFlag_rndIn (r : Nibble) (v : Byte) (f : Bool) : (s.setRegFlag r v f).rndIn = s.rndIn := rfl
@[simp] theorem State.setRegFlag_draws (r : Nibble) (v : Byte) (f : Bool) : (s.setRegFlag r v f).draws = s.draws := rfl
@[simp] theorem State.setRegFlag_driver (r : Nibble) (v : Byte) (f : Bool) :
    (s.setRegFlag r v f).driver = s.driver := rfl

/-! ### A bulk register load: `loadRegs` -/

@[simp] theorem State.loadRegs_mem (a : Nat) (r : Nibble) : (s.loadRegs a r).mem = s.mem := rfl
@[simp] theorem State.loadRegs_I (a : Nat) (r : Nibble) : (s.loadRegs a r).I = s.I := rfl
@[simp] theorem State.loadRegs_pc (a : Nat) (r : Nibble) : (s.loadRegs a r).pc = s.pc := rfl
@[simp] theorem State.loadRegs_stack (a : Nat) (r : Nibble) : (s.loadRegs a r).stack = s.stack := rfl
@[simp] theorem State.loadRegs_sp (a : Nat) (r : Nibble) : (s.loadRegs a r).sp = s.sp := rfl
@[simp] theorem State.loadRegs_DT (a : Nat) (r : Nibble) : (s.loadRegs a r).DT = s.DT := rfl
@[simp] theorem State.loadRegs_ST (a : Nat) (r : Nibble) : (s.loadRegs a r).ST = s.ST := rfl
@[simp] theorem State.loadRegs_fb (a : Nat) (r : Nibble) : (s.loadRegs a r).fb = s.fb := rfl
@[simp] theorem State.loadRegs_key (a : Nat) (r : Nibble) : (s.loadRegs a r).key = s.key := rfl
@[simp] theorem State.loadRegs_latch (a : Nat) (r : Nibble) : (s.loadRegs a r).latch = s.latch := rfl
@[simp] theorem State.loadRegs_wait (a : Nat) (r : Nibble) : (s.loadRegs a r).wait = s.wait := rfl
@[simp] theorem State.loadRegs_drew (a : Nat) (r : Nibble) : (s.loadRegs a r).drew = s.drew := rfl
@[simp] theorem State.loadRegs_fault (a : Nat) (r : Nibble) : (s.loadRegs a r).fault = s.fault := rfl
@[simp] theorem State.loadRegs_faultDetail (a : Nat) (r : Nibble) : (s.loadRegs a r).faultDetail = s.faultDetail := rfl
@[simp] theorem State.loadRegs_faultPc (a : Nat) (r : Nibble) : (s.loadRegs a r).faultPc = s.faultPc := rfl
@[simp] theorem State.loadRegs_faultWord (a : Nat) (r : Nibble) : (s.loadRegs a r).faultWord = s.faultWord := rfl
@[simp] theorem State.loadRegs_params (a : Nat) (r : Nibble) : (s.loadRegs a r).params = s.params := rfl
@[simp] theorem State.loadRegs_rndIn (a : Nat) (r : Nibble) : (s.loadRegs a r).rndIn = s.rndIn := rfl
@[simp] theorem State.loadRegs_draws (a : Nat) (r : Nibble) : (s.loadRegs a r).draws = s.draws := rfl
@[simp] theorem State.loadRegs_driver (a : Nat) (r : Nibble) : (s.loadRegs a r).driver = s.driver := rfl

/-! ### A store: `storeBytes` -/

@[simp] theorem State.storeBytes_mem (a : Nat) (vs : List Byte) :
    (s.storeBytes a vs).mem = s.mem.writes s.params.fontRom a vs := rfl
@[simp] theorem State.storeBytes_x (a : Nat) (vs : List Byte) : (s.storeBytes a vs).x = s.x := rfl
@[simp] theorem State.storeBytes_I (a : Nat) (vs : List Byte) : (s.storeBytes a vs).I = s.I := rfl
@[simp] theorem State.storeBytes_pc (a : Nat) (vs : List Byte) : (s.storeBytes a vs).pc = s.pc := rfl
@[simp] theorem State.storeBytes_stack (a : Nat) (vs : List Byte) : (s.storeBytes a vs).stack = s.stack := rfl
@[simp] theorem State.storeBytes_sp (a : Nat) (vs : List Byte) : (s.storeBytes a vs).sp = s.sp := rfl
@[simp] theorem State.storeBytes_DT (a : Nat) (vs : List Byte) : (s.storeBytes a vs).DT = s.DT := rfl
@[simp] theorem State.storeBytes_ST (a : Nat) (vs : List Byte) : (s.storeBytes a vs).ST = s.ST := rfl
@[simp] theorem State.storeBytes_fb (a : Nat) (vs : List Byte) : (s.storeBytes a vs).fb = s.fb := rfl
@[simp] theorem State.storeBytes_key (a : Nat) (vs : List Byte) : (s.storeBytes a vs).key = s.key := rfl
@[simp] theorem State.storeBytes_latch (a : Nat) (vs : List Byte) : (s.storeBytes a vs).latch = s.latch := rfl
@[simp] theorem State.storeBytes_wait (a : Nat) (vs : List Byte) : (s.storeBytes a vs).wait = s.wait := rfl
@[simp] theorem State.storeBytes_drew (a : Nat) (vs : List Byte) : (s.storeBytes a vs).drew = s.drew := rfl
@[simp] theorem State.storeBytes_fault (a : Nat) (vs : List Byte) : (s.storeBytes a vs).fault = s.fault := rfl
@[simp] theorem State.storeBytes_faultDetail (a : Nat) (vs : List Byte) :
    (s.storeBytes a vs).faultDetail = s.faultDetail := rfl
@[simp] theorem State.storeBytes_faultPc (a : Nat) (vs : List Byte) : (s.storeBytes a vs).faultPc = s.faultPc := rfl
@[simp] theorem State.storeBytes_faultWord (a : Nat) (vs : List Byte) :
    (s.storeBytes a vs).faultWord = s.faultWord := rfl
@[simp] theorem State.storeBytes_params (a : Nat) (vs : List Byte) : (s.storeBytes a vs).params = s.params := rfl
@[simp] theorem State.storeBytes_rndIn (a : Nat) (vs : List Byte) : (s.storeBytes a vs).rndIn = s.rndIn := rfl
@[simp] theorem State.storeBytes_draws (a : Nat) (vs : List Byte) : (s.storeBytes a vs).draws = s.draws := rfl
@[simp] theorem State.storeBytes_driver (a : Nat) (vs : List Byte) : (s.storeBytes a vs).driver = s.driver := rfl

/-! ### The fetch's advance: `advance` -/

@[simp] theorem State.advance_mem : (s.advance).mem = s.mem := rfl
@[simp] theorem State.advance_x : (s.advance).x = s.x := rfl
@[simp] theorem State.advance_I : (s.advance).I = s.I := rfl
@[simp] theorem State.advance_pc : (s.advance).pc = s.pc + 2#16 := rfl
@[simp] theorem State.advance_stack : (s.advance).stack = s.stack := rfl
@[simp] theorem State.advance_sp : (s.advance).sp = s.sp := rfl
@[simp] theorem State.advance_DT : (s.advance).DT = s.DT := rfl
@[simp] theorem State.advance_ST : (s.advance).ST = s.ST := rfl
@[simp] theorem State.advance_fb : (s.advance).fb = s.fb := rfl
@[simp] theorem State.advance_key : (s.advance).key = s.key := rfl
@[simp] theorem State.advance_latch : (s.advance).latch = s.latch := rfl
@[simp] theorem State.advance_wait : (s.advance).wait = false := rfl
@[simp] theorem State.advance_drew : (s.advance).drew = false := rfl
@[simp] theorem State.advance_fault : (s.advance).fault = s.fault := rfl
@[simp] theorem State.advance_faultDetail : (s.advance).faultDetail = s.faultDetail := rfl
@[simp] theorem State.advance_faultPc : (s.advance).faultPc = s.faultPc := rfl
@[simp] theorem State.advance_faultWord : (s.advance).faultWord = s.faultWord := rfl
@[simp] theorem State.advance_params : (s.advance).params = s.params := rfl
@[simp] theorem State.advance_rndIn : (s.advance).rndIn = s.rndIn := rfl
@[simp] theorem State.advance_draws : (s.advance).draws = s.draws := rfl
@[simp] theorem State.advance_driver : (s.advance).driver = s.driver := rfl

/-! ### A jump: `jump` -/

@[simp] theorem State.jump_mem (t : Word) : (s.jump t).mem = s.mem := rfl
@[simp] theorem State.jump_x (t : Word) : (s.jump t).x = s.x := rfl
@[simp] theorem State.jump_I (t : Word) : (s.jump t).I = s.I := rfl
@[simp] theorem State.jump_pc (t : Word) : (s.jump t).pc = t := rfl
@[simp] theorem State.jump_stack (t : Word) : (s.jump t).stack = s.stack := rfl
@[simp] theorem State.jump_sp (t : Word) : (s.jump t).sp = s.sp := rfl
@[simp] theorem State.jump_DT (t : Word) : (s.jump t).DT = s.DT := rfl
@[simp] theorem State.jump_ST (t : Word) : (s.jump t).ST = s.ST := rfl
@[simp] theorem State.jump_fb (t : Word) : (s.jump t).fb = s.fb := rfl
@[simp] theorem State.jump_key (t : Word) : (s.jump t).key = s.key := rfl
@[simp] theorem State.jump_latch (t : Word) : (s.jump t).latch = s.latch := rfl
@[simp] theorem State.jump_wait (t : Word) : (s.jump t).wait = s.wait := rfl
@[simp] theorem State.jump_drew (t : Word) : (s.jump t).drew = s.drew := rfl
@[simp] theorem State.jump_fault (t : Word) : (s.jump t).fault = s.fault := rfl
@[simp] theorem State.jump_faultDetail (t : Word) : (s.jump t).faultDetail = s.faultDetail := rfl
@[simp] theorem State.jump_faultPc (t : Word) : (s.jump t).faultPc = s.faultPc := rfl
@[simp] theorem State.jump_faultWord (t : Word) : (s.jump t).faultWord = s.faultWord := rfl
@[simp] theorem State.jump_params (t : Word) : (s.jump t).params = s.params := rfl
@[simp] theorem State.jump_rndIn (t : Word) : (s.jump t).rndIn = s.rndIn := rfl
@[simp] theorem State.jump_draws (t : Word) : (s.jump t).draws = s.draws := rfl
@[simp] theorem State.jump_driver (t : Word) : (s.jump t).driver = s.driver := rfl

/-! ### A conditional skip: `skipIf` -/

@[simp] theorem State.skipIf_mem (c : Bool) : (s.skipIf c).mem = s.mem := by cases c <;> rfl
@[simp] theorem State.skipIf_x (c : Bool) : (s.skipIf c).x = s.x := by cases c <;> rfl
@[simp] theorem State.skipIf_I (c : Bool) : (s.skipIf c).I = s.I := by cases c <;> rfl
@[simp] theorem State.skipIf_pc (c : Bool) : (s.skipIf c).pc = if c then s.pc + 2#16 else s.pc := by cases c <;> rfl
@[simp] theorem State.skipIf_stack (c : Bool) : (s.skipIf c).stack = s.stack := by cases c <;> rfl
@[simp] theorem State.skipIf_sp (c : Bool) : (s.skipIf c).sp = s.sp := by cases c <;> rfl
@[simp] theorem State.skipIf_DT (c : Bool) : (s.skipIf c).DT = s.DT := by cases c <;> rfl
@[simp] theorem State.skipIf_ST (c : Bool) : (s.skipIf c).ST = s.ST := by cases c <;> rfl
@[simp] theorem State.skipIf_fb (c : Bool) : (s.skipIf c).fb = s.fb := by cases c <;> rfl
@[simp] theorem State.skipIf_key (c : Bool) : (s.skipIf c).key = s.key := by cases c <;> rfl
@[simp] theorem State.skipIf_latch (c : Bool) : (s.skipIf c).latch = s.latch := by cases c <;> rfl
@[simp] theorem State.skipIf_wait (c : Bool) : (s.skipIf c).wait = s.wait := by cases c <;> rfl
@[simp] theorem State.skipIf_drew (c : Bool) : (s.skipIf c).drew = s.drew := by cases c <;> rfl
@[simp] theorem State.skipIf_fault (c : Bool) : (s.skipIf c).fault = s.fault := by cases c <;> rfl
@[simp] theorem State.skipIf_faultDetail (c : Bool) : (s.skipIf c).faultDetail = s.faultDetail := by cases c <;> rfl
@[simp] theorem State.skipIf_faultPc (c : Bool) : (s.skipIf c).faultPc = s.faultPc := by cases c <;> rfl
@[simp] theorem State.skipIf_faultWord (c : Bool) : (s.skipIf c).faultWord = s.faultWord := by cases c <;> rfl
@[simp] theorem State.skipIf_params (c : Bool) : (s.skipIf c).params = s.params := by cases c <;> rfl
@[simp] theorem State.skipIf_rndIn (c : Bool) : (s.skipIf c).rndIn = s.rndIn := by cases c <;> rfl
@[simp] theorem State.skipIf_draws (c : Bool) : (s.skipIf c).draws = s.draws := by cases c <;> rfl
@[simp] theorem State.skipIf_driver (c : Bool) : (s.skipIf c).driver = s.driver := by cases c <;> rfl

/-! ### A random byte read: `consumeRandom` -/

@[simp] theorem State.consumeRandom_mem :
    (s.consumeRandom).mem = s.mem := by unfold State.consumeRandom; cases s.rndIn <;> rfl
@[simp] theorem State.consumeRandom_x :
    (s.consumeRandom).x = s.x := by unfold State.consumeRandom; cases s.rndIn <;> rfl
@[simp] theorem State.consumeRandom_I :
    (s.consumeRandom).I = s.I := by unfold State.consumeRandom; cases s.rndIn <;> rfl
@[simp] theorem State.consumeRandom_pc :
    (s.consumeRandom).pc = s.pc := by unfold State.consumeRandom; cases s.rndIn <;> rfl
@[simp] theorem State.consumeRandom_stack :
    (s.consumeRandom).stack = s.stack := by unfold State.consumeRandom; cases s.rndIn <;> rfl
@[simp] theorem State.consumeRandom_sp :
    (s.consumeRandom).sp = s.sp := by unfold State.consumeRandom; cases s.rndIn <;> rfl
@[simp] theorem State.consumeRandom_DT :
    (s.consumeRandom).DT = s.DT := by unfold State.consumeRandom; cases s.rndIn <;> rfl
@[simp] theorem State.consumeRandom_ST :
    (s.consumeRandom).ST = s.ST := by unfold State.consumeRandom; cases s.rndIn <;> rfl
@[simp] theorem State.consumeRandom_fb :
    (s.consumeRandom).fb = s.fb := by unfold State.consumeRandom; cases s.rndIn <;> rfl
@[simp] theorem State.consumeRandom_key :
    (s.consumeRandom).key = s.key := by unfold State.consumeRandom; cases s.rndIn <;> rfl
@[simp] theorem State.consumeRandom_latch :
    (s.consumeRandom).latch = s.latch := by unfold State.consumeRandom; cases s.rndIn <;> rfl
@[simp] theorem State.consumeRandom_wait :
    (s.consumeRandom).wait = s.wait := by unfold State.consumeRandom; cases s.rndIn <;> rfl
@[simp] theorem State.consumeRandom_drew :
    (s.consumeRandom).drew = s.drew := by unfold State.consumeRandom; cases s.rndIn <;> rfl
@[simp] theorem State.consumeRandom_fault :
    (s.consumeRandom).fault = s.fault := by unfold State.consumeRandom; cases s.rndIn <;> rfl
@[simp] theorem State.consumeRandom_faultDetail :
    (s.consumeRandom).faultDetail = s.faultDetail := by unfold State.consumeRandom; cases s.rndIn <;> rfl
@[simp] theorem State.consumeRandom_faultPc :
    (s.consumeRandom).faultPc = s.faultPc := by unfold State.consumeRandom; cases s.rndIn <;> rfl
@[simp] theorem State.consumeRandom_faultWord :
    (s.consumeRandom).faultWord = s.faultWord := by unfold State.consumeRandom; cases s.rndIn <;> rfl
@[simp] theorem State.consumeRandom_params :
    (s.consumeRandom).params = s.params := by unfold State.consumeRandom; cases s.rndIn <;> rfl
@[simp] theorem State.consumeRandom_driver :
    (s.consumeRandom).driver = s.driver := by unfold State.consumeRandom; cases s.rndIn <;> rfl

/-! ### A key written: `setKey` -/

@[simp] theorem State.setKey_mem (k : Nibble) (b : Bool) : (s.setKey k b).mem = s.mem := rfl
@[simp] theorem State.setKey_x (k : Nibble) (b : Bool) : (s.setKey k b).x = s.x := rfl
@[simp] theorem State.setKey_I (k : Nibble) (b : Bool) : (s.setKey k b).I = s.I := rfl
@[simp] theorem State.setKey_pc (k : Nibble) (b : Bool) : (s.setKey k b).pc = s.pc := rfl
@[simp] theorem State.setKey_stack (k : Nibble) (b : Bool) : (s.setKey k b).stack = s.stack := rfl
@[simp] theorem State.setKey_sp (k : Nibble) (b : Bool) : (s.setKey k b).sp = s.sp := rfl
@[simp] theorem State.setKey_DT (k : Nibble) (b : Bool) : (s.setKey k b).DT = s.DT := rfl
@[simp] theorem State.setKey_ST (k : Nibble) (b : Bool) : (s.setKey k b).ST = s.ST := rfl
@[simp] theorem State.setKey_fb (k : Nibble) (b : Bool) : (s.setKey k b).fb = s.fb := rfl
@[simp] theorem State.setKey_key (k : Nibble) (b : Bool) : (s.setKey k b).key = s.key.set k.toNat b k.isLt := rfl
@[simp] theorem State.setKey_latch (k : Nibble) (b : Bool) : (s.setKey k b).latch = s.latch := rfl
@[simp] theorem State.setKey_wait (k : Nibble) (b : Bool) : (s.setKey k b).wait = s.wait := rfl
@[simp] theorem State.setKey_drew (k : Nibble) (b : Bool) : (s.setKey k b).drew = s.drew := rfl
@[simp] theorem State.setKey_fault (k : Nibble) (b : Bool) : (s.setKey k b).fault = s.fault := rfl
@[simp] theorem State.setKey_faultDetail (k : Nibble) (b : Bool) : (s.setKey k b).faultDetail = s.faultDetail := rfl
@[simp] theorem State.setKey_faultPc (k : Nibble) (b : Bool) : (s.setKey k b).faultPc = s.faultPc := rfl
@[simp] theorem State.setKey_faultWord (k : Nibble) (b : Bool) : (s.setKey k b).faultWord = s.faultWord := rfl
@[simp] theorem State.setKey_params (k : Nibble) (b : Bool) : (s.setKey k b).params = s.params := rfl
@[simp] theorem State.setKey_rndIn (k : Nibble) (b : Bool) : (s.setKey k b).rndIn = s.rndIn := rfl
@[simp] theorem State.setKey_draws (k : Nibble) (b : Bool) : (s.setKey k b).draws = s.draws := rfl
@[simp] theorem State.setKey_driver (k : Nibble) (b : Bool) : (s.setKey k b).driver = s.driver := rfl

/-! ### A fault taken: `raise` -/

@[simp] theorem State.raise_mem (t : Trap) (w : Word) : (s.raise t w).mem = s.mem := rfl
@[simp] theorem State.raise_x (t : Trap) (w : Word) : (s.raise t w).x = s.x := rfl
@[simp] theorem State.raise_I (t : Trap) (w : Word) : (s.raise t w).I = s.I := rfl
@[simp] theorem State.raise_pc (t : Trap) (w : Word) : (s.raise t w).pc = s.pc := rfl
@[simp] theorem State.raise_stack (t : Trap) (w : Word) : (s.raise t w).stack = s.stack := rfl
@[simp] theorem State.raise_sp (t : Trap) (w : Word) : (s.raise t w).sp = s.sp := rfl
@[simp] theorem State.raise_DT (t : Trap) (w : Word) : (s.raise t w).DT = s.DT := rfl
@[simp] theorem State.raise_ST (t : Trap) (w : Word) : (s.raise t w).ST = s.ST := rfl
@[simp] theorem State.raise_fb (t : Trap) (w : Word) : (s.raise t w).fb = s.fb := rfl
@[simp] theorem State.raise_key (t : Trap) (w : Word) : (s.raise t w).key = s.key := rfl
@[simp] theorem State.raise_latch (t : Trap) (w : Word) : (s.raise t w).latch = s.latch := rfl
@[simp] theorem State.raise_wait (t : Trap) (w : Word) : (s.raise t w).wait = s.wait := rfl
@[simp] theorem State.raise_drew (t : Trap) (w : Word) : (s.raise t w).drew = s.drew := rfl
@[simp] theorem State.raise_fault (t : Trap) (w : Word) : (s.raise t w).fault = t.cause := rfl
@[simp] theorem State.raise_faultDetail (t : Trap) (w : Word) : (s.raise t w).faultDetail = t.detail := rfl
@[simp] theorem State.raise_faultPc (t : Trap) (w : Word) : (s.raise t w).faultPc = s.pc := rfl
@[simp] theorem State.raise_faultWord (t : Trap) (w : Word) : (s.raise t w).faultWord = w := rfl
@[simp] theorem State.raise_params (t : Trap) (w : Word) : (s.raise t w).params = s.params := rfl
@[simp] theorem State.raise_rndIn (t : Trap) (w : Word) : (s.raise t w).rndIn = s.rndIn := rfl
@[simp] theorem State.raise_draws (t : Trap) (w : Word) : (s.raise t w).draws = s.draws := rfl
@[simp] theorem State.raise_driver (t : Trap) (w : Word) : (s.raise t w).driver = s.driver := rfl

/-! ### A timer tick: `timerTick` -/

@[simp] theorem State.timerTick_mem : (s.timerTick).mem = s.mem := rfl
@[simp] theorem State.timerTick_x : (s.timerTick).x = s.x := rfl
@[simp] theorem State.timerTick_I : (s.timerTick).I = s.I := rfl
@[simp] theorem State.timerTick_pc : (s.timerTick).pc = s.pc := rfl
@[simp] theorem State.timerTick_stack : (s.timerTick).stack = s.stack := rfl
@[simp] theorem State.timerTick_sp : (s.timerTick).sp = s.sp := rfl
@[simp] theorem State.timerTick_DT : (s.timerTick).DT = countDown s.DT := rfl
@[simp] theorem State.timerTick_ST : (s.timerTick).ST = countDown s.ST := rfl
@[simp] theorem State.timerTick_fb : (s.timerTick).fb = s.fb := rfl
@[simp] theorem State.timerTick_key : (s.timerTick).key = s.key := rfl
@[simp] theorem State.timerTick_latch : (s.timerTick).latch = s.latch := rfl
@[simp] theorem State.timerTick_wait : (s.timerTick).wait = s.wait := rfl
@[simp] theorem State.timerTick_drew : (s.timerTick).drew = s.drew := rfl
@[simp] theorem State.timerTick_fault : (s.timerTick).fault = s.fault := rfl
@[simp] theorem State.timerTick_faultDetail : (s.timerTick).faultDetail = s.faultDetail := rfl
@[simp] theorem State.timerTick_faultPc : (s.timerTick).faultPc = s.faultPc := rfl
@[simp] theorem State.timerTick_faultWord : (s.timerTick).faultWord = s.faultWord := rfl
@[simp] theorem State.timerTick_params : (s.timerTick).params = s.params := rfl
@[simp] theorem State.timerTick_rndIn : (s.timerTick).rndIn = s.rndIn := rfl
@[simp] theorem State.timerTick_draws : (s.timerTick).draws = s.draws := rfl
@[simp] theorem State.timerTick_driver : (s.timerTick).driver = s.driver := rfl

/-! ### A key press: `keyPress` -/

@[simp] theorem State.keyPress_mem (k : Nibble) : (s.keyPress k).mem = s.mem := rfl
@[simp] theorem State.keyPress_x (k : Nibble) : (s.keyPress k).x = s.x := rfl
@[simp] theorem State.keyPress_I (k : Nibble) : (s.keyPress k).I = s.I := rfl
@[simp] theorem State.keyPress_pc (k : Nibble) : (s.keyPress k).pc = s.pc := rfl
@[simp] theorem State.keyPress_stack (k : Nibble) : (s.keyPress k).stack = s.stack := rfl
@[simp] theorem State.keyPress_sp (k : Nibble) : (s.keyPress k).sp = s.sp := rfl
@[simp] theorem State.keyPress_DT (k : Nibble) : (s.keyPress k).DT = s.DT := rfl
@[simp] theorem State.keyPress_ST (k : Nibble) : (s.keyPress k).ST = s.ST := rfl
@[simp] theorem State.keyPress_fb (k : Nibble) : (s.keyPress k).fb = s.fb := rfl
@[simp] theorem State.keyPress_key (k : Nibble) : (s.keyPress k).key = s.key.set k.toNat true k.isLt := rfl
@[simp] theorem State.keyPress_latch (k : Nibble) : (s.keyPress k).latch = s.latch := rfl
@[simp] theorem State.keyPress_wait (k : Nibble) : (s.keyPress k).wait = s.wait := rfl
@[simp] theorem State.keyPress_drew (k : Nibble) : (s.keyPress k).drew = s.drew := rfl
@[simp] theorem State.keyPress_fault (k : Nibble) : (s.keyPress k).fault = s.fault := rfl
@[simp] theorem State.keyPress_faultDetail (k : Nibble) : (s.keyPress k).faultDetail = s.faultDetail := rfl
@[simp] theorem State.keyPress_faultPc (k : Nibble) : (s.keyPress k).faultPc = s.faultPc := rfl
@[simp] theorem State.keyPress_faultWord (k : Nibble) : (s.keyPress k).faultWord = s.faultWord := rfl
@[simp] theorem State.keyPress_params (k : Nibble) : (s.keyPress k).params = s.params := rfl
@[simp] theorem State.keyPress_rndIn (k : Nibble) : (s.keyPress k).rndIn = s.rndIn := rfl
@[simp] theorem State.keyPress_draws (k : Nibble) : (s.keyPress k).draws = s.draws := rfl
@[simp] theorem State.keyPress_driver (k : Nibble) : (s.keyPress k).driver = s.driver := rfl

/-! ### A key release: `keyRelease` -/

@[simp] theorem State.keyRelease_mem (k : Nibble) : (s.keyRelease k).mem = s.mem := rfl
@[simp] theorem State.keyRelease_x (k : Nibble) : (s.keyRelease k).x = s.x := rfl
@[simp] theorem State.keyRelease_I (k : Nibble) : (s.keyRelease k).I = s.I := rfl
@[simp] theorem State.keyRelease_pc (k : Nibble) : (s.keyRelease k).pc = s.pc := rfl
@[simp] theorem State.keyRelease_stack (k : Nibble) : (s.keyRelease k).stack = s.stack := rfl
@[simp] theorem State.keyRelease_sp (k : Nibble) : (s.keyRelease k).sp = s.sp := rfl
@[simp] theorem State.keyRelease_DT (k : Nibble) : (s.keyRelease k).DT = s.DT := rfl
@[simp] theorem State.keyRelease_ST (k : Nibble) : (s.keyRelease k).ST = s.ST := rfl
@[simp] theorem State.keyRelease_fb (k : Nibble) : (s.keyRelease k).fb = s.fb := rfl
@[simp] theorem State.keyRelease_key (k : Nibble) : (s.keyRelease k).key = s.key.set k.toNat false k.isLt := rfl
@[simp] theorem State.keyRelease_latch (k : Nibble) : (s.keyRelease k).latch = false := rfl
@[simp] theorem State.keyRelease_wait (k : Nibble) : (s.keyRelease k).wait = s.wait := rfl
@[simp] theorem State.keyRelease_drew (k : Nibble) : (s.keyRelease k).drew = s.drew := rfl
@[simp] theorem State.keyRelease_fault (k : Nibble) : (s.keyRelease k).fault = s.fault := rfl
@[simp] theorem State.keyRelease_faultDetail (k : Nibble) : (s.keyRelease k).faultDetail = s.faultDetail := rfl
@[simp] theorem State.keyRelease_faultPc (k : Nibble) : (s.keyRelease k).faultPc = s.faultPc := rfl
@[simp] theorem State.keyRelease_faultWord (k : Nibble) : (s.keyRelease k).faultWord = s.faultWord := rfl
@[simp] theorem State.keyRelease_params (k : Nibble) : (s.keyRelease k).params = s.params := rfl
@[simp] theorem State.keyRelease_rndIn (k : Nibble) : (s.keyRelease k).rndIn = s.rndIn := rfl
@[simp] theorem State.keyRelease_draws (k : Nibble) : (s.keyRelease k).draws = s.draws := rfl
@[simp] theorem State.keyRelease_driver (k : Nibble) : (s.keyRelease k).driver = s.driver := rfl

end Sys2Proof.Machine
end

