-- ==== Sys2Proof/Laws/Memory.lean ====
section
/-! SUPPORT. Laws/Memory.lean: read after write, and that every memory operation keeps the canonical form. -/

namespace Sys2Proof.Machine

variable (rom : FontRom)

/-- Reading after an insertion, in any list. -/
theorem Memory.read_insert (m : Memory) (a : Nat) (v : Byte) (b : Nat)
    (hm : m.Pairwise (fun c d => c.1 < d.1)) :
    Memory.read rom (Memory.insert rom a v m) b = if b = a then v else Memory.read rom m b := by
  have absent : ∀ m : Memory, (∀ c ∈ m, a < c.1) → Memory.read rom m a = Memory.resetByte rom a := by
    intro m
    induction m with
    | nil => intro _; rfl
    | cons c m ih =>
      intro h
      have hc := h c (by simp)
      rw [Memory.read, if_neg (by omega)]
      exact ih (fun d hd => h d (by simp [hd]))
  induction m with
  | nil =>
    simp only [Memory.insert]
    split <;> rename_i hv <;> by_cases hb : b = a <;> simp [Memory.read, hb, hv]
  | cons c m ih =>
    obtain ⟨k, u⟩ := c
    obtain ⟨hk, hm'⟩ := List.pairwise_cons.mp hm
    simp only [Memory.insert]
    split
    · rename_i hlt
      have habs := absent ((k, u) :: m) (by
        intro d hd
        rcases List.mem_cons.mp hd with rfl | hd
        · exact hlt
        · exact lt_trans hlt (hk d hd))
      split
      · rename_i hv
        by_cases hb : b = a
        · rw [if_pos hb, hb, habs, hv]
        · rw [if_neg hb]
      · by_cases hb : b = a <;> simp [Memory.read, hb]
    · split
      · rename_i heq
        subst heq
        split
        · rename_i hv
          by_cases hb : b = a
          · rw [if_pos hb, hb, absent m (fun d hd => hk d hd), hv]
          · simp [Memory.read, hb]
        · by_cases hb : b = a <;> simp [Memory.read, hb]
      · rename_i hne
        by_cases hb : b = k
        · subst hb
          rw [if_neg (by omega)]
          simp [Memory.read]
        · simp only [Memory.read, if_neg hb]
          exact ih hm'

/-- Every entry after an insertion is the new one or an old one. -/
theorem Memory.mem_insert {m : Memory} {a : Nat} {v : Byte} {c : Host.Cell}
    (h : c ∈ Memory.insert rom a v m) : (c = (a, v) ∧ v ≠ Memory.resetByte rom a) ∨ c ∈ m := by
  induction m with
  | nil =>
    simp only [Memory.insert] at h
    split at h
    · simp at h
    · exact .inl ⟨by simpa using h, by assumption⟩
  | cons d m ih =>
    obtain ⟨k, u⟩ := d
    simp only [Memory.insert] at h
    split at h
    · split at h
      · exact .inr h
      · rcases List.mem_cons.mp h with h | h
        · exact .inl ⟨h, by assumption⟩
        · exact .inr h
    · split at h
      · split at h
        · exact .inr (List.mem_cons_of_mem _ h)
        · rcases List.mem_cons.mp h with h | h
          · exact .inl ⟨h, by assumption⟩
          · exact .inr (List.mem_cons_of_mem _ h)
      · rcases List.mem_cons.mp h with h | h
        · exact .inr (h ▸ List.mem_cons_self)
        · rcases ih h with h | h
          · exact .inl h
          · exact .inr (List.mem_cons_of_mem _ h)

/-- An insertion keeps the addresses rising. -/
theorem Memory.insert_rising (m : Memory) (a : Nat) (v : Byte) (hm : m.Pairwise (fun c d => c.1 < d.1)) :
    (Memory.insert rom a v m).Pairwise (fun c d => c.1 < d.1) := by
  induction m with
  | nil => simp only [Memory.insert]; split <;> simp
  | cons d m ih =>
    obtain ⟨k, u⟩ := d
    obtain ⟨hk, hm'⟩ := List.pairwise_cons.mp hm
    simp only [Memory.insert]
    split
    · rename_i hlt
      split
      · exact hm
      · refine List.pairwise_cons.mpr ⟨fun c hc => ?_, hm⟩
        rcases List.mem_cons.mp hc with rfl | hc
        · exact hlt
        · exact lt_trans hlt (hk c hc)
    · split
      · rename_i heq
        subst heq
        split
        · exact hm'
        · exact List.pairwise_cons.mpr ⟨hk, hm'⟩
      · rename_i h1 h2
        refine List.pairwise_cons.mpr ⟨fun c hc => ?_, ih hm'⟩
        rcases Memory.mem_insert rom hc with ⟨rfl, -⟩ | hc
        · show k < a
          omega
        · exact hk c hc

/-- A write keeps the canonical form. -/
theorem Memory.wf_write {m : Memory} (hm : Memory.wf rom m) (a : Nat) (v : Byte) :
    Memory.wf rom (Memory.write rom m a v) := by
  unfold Memory.write
  split
  · rename_i ha
    refine ⟨Memory.insert_rising rom m a v hm.1, fun c hc => ?_⟩
    rcases Memory.mem_insert rom hc with ⟨rfl, hv⟩ | hc
    · exact ⟨ha, hv⟩
    · exact hm.2 c hc
  · exact hm

/-- Writing several bytes keeps the canonical form. -/
theorem Memory.wf_writes {m : Memory} (hm : Memory.wf rom m) (a : Nat) (vs : List Byte) :
    Memory.wf rom (Memory.writes rom m a vs) := by
  induction vs generalizing m a with
  | nil => exact hm
  | cons v vs ih => exact ih (Memory.wf_write rom hm a v) (a + 1)

/-- The empty list is canonical: it is the memory at reset. -/
theorem Memory.wf_nil : Memory.wf rom [] := ⟨List.Pairwise.nil, by simp⟩

/-- Read after a write (20_memory.md R65, R72): the written byte at its address, every other byte as before. -/
theorem Memory.read_write {m : Memory} (hm : m.Pairwise (fun c d => c.1 < d.1)) (a : Nat) (ha : a < 4096) (v : Byte)
    (b : Nat) : Memory.read rom (Memory.write rom m a v) b = if b = a then v else Memory.read rom m b := by
  rw [Memory.write, if_pos ha, Memory.read_insert rom m a v b hm]

/-- A write keeps the addresses rising, in range or not. -/
theorem Memory.write_rising {m : Memory} (hm : m.Pairwise (fun c d => c.1 < d.1)) (a : Nat) (v : Byte) :
    (Memory.write rom m a v).Pairwise (fun c d => c.1 < d.1) := by
  unfold Memory.write
  split
  · exact Memory.insert_rising rom m a v hm
  · exact hm

/-- Read after writing several bytes inside the memory. -/
theorem Memory.read_writes {m : Memory} (hm : m.Pairwise (fun c d => c.1 < d.1)) (a : Nat) (vs : List Byte)
    (ha : a + vs.length ≤ 4096) (b : Nat) :
    Memory.read rom (Memory.writes rom m a vs) b =
      if a ≤ b then (vs[b - a]?).getD (Memory.read rom m b) else Memory.read rom m b := by
  induction vs generalizing m a with
  | nil => simp [Memory.writes]
  | cons v vs ih =>
    simp only [List.length_cons] at ha
    rw [Memory.writes, ih (Memory.write_rising rom hm a v) (a + 1) (by omega),
      Memory.read_write rom hm a (by omega) v]
    by_cases h1 : a + 1 ≤ b
    · have e : b - a = (b - (a + 1)) + 1 := by omega
      rw [if_pos h1, if_pos (by omega : a ≤ b), if_neg (by omega : ¬ b = a), e, List.getElem?_cons_succ]
    · rw [if_neg h1]
      by_cases h2 : b = a
      · simp [h2]
      · rw [if_neg h2, if_neg (by omega)]

/-- A byte read sees only the memory and the font parameter. -/
theorem State.readByte_congr {s t : State} (hm : t.mem = s.mem) (hp : t.params = s.params) (a : Nat) :
    t.readByte a = s.readByte a := by
  simp only [State.readByte, hm, hp]

/-- Read after a store inside the memory, by what `storeBytes` is called with. -/
theorem State.readByte_storeBytes (s : State) (hm : s.mem.Pairwise (fun c d => c.1 < d.1)) (a : Nat) (vs : List Byte)
    (ha : a + vs.length ≤ 4096) (b : Nat) :
    (s.storeBytes a vs).readByte b = if a ≤ b then (vs[b - a]?).getD (s.readByte b) else s.readByte b :=
  Memory.read_writes s.params.fontRom hm a vs ha b

/-- An insertion leaves every other address alone, in any list. -/
theorem Memory.read_insert_other (m : Memory) (a : Nat) (v : Byte) (b : Nat) (hb : b ≠ a) :
    Memory.read rom (Memory.insert rom a v m) b = Memory.read rom m b := by
  induction m with
  | nil => simp only [Memory.insert]; split <;> simp [Memory.read, hb]
  | cons c m ih =>
    obtain ⟨k, u⟩ := c
    simp only [Memory.insert]
    split
    · split <;> simp [Memory.read, hb]
    · split
      · rename_i heq
        subst heq
        split <;> simp [Memory.read, hb]
      · simp only [Memory.read, ih]

/-- Writing several bytes leaves every other address alone, in any list. -/
theorem Memory.read_writes_other (m : Memory) (a : Nat) (vs : List Byte) (b : Nat)
    (hb : b < a ∨ a + vs.length ≤ b) :
    Memory.read rom (Memory.writes rom m a vs) b = Memory.read rom m b := by
  induction vs generalizing m a with
  | nil => rfl
  | cons v vs ih =>
    simp only [List.length_cons] at hb
    rw [Memory.writes, ih _ (a + 1) (by omega), Memory.write]
    split
    · exact Memory.read_insert_other rom m a v b (by omega)
    · rfl

/-- A store leaves every byte outside the stored ones alone, in any state. -/
theorem State.readByte_storeBytes_other (s : State) (a : Nat) (vs : List Byte) (b : Nat)
    (hb : b < a ∨ a + vs.length ≤ b) : (s.storeBytes a vs).readByte b = s.readByte b :=
  Memory.read_writes_other s.params.fontRom s.mem a vs b hb

/-- The range test, spelt out (20_memory.md R64, R70). -/
theorem accessOk_iff (a n : Nat) : accessOk a n = true ↔ n = 0 ∨ a + n ≤ 4096 := by
  simp [accessOk]

end Sys2Proof.Machine
end

