-- ==== Sys2Proof/Laws/PerInstr.lean ====
section
/-! SUPPORT. Laws/PerInstr.lean: the family `OpcodeRow`, one lemma per instruction: its word carries its row's `match` bits
under its row's `mask` (30_encoding.md R100). -/

namespace Sys2Proof

/-- A mask of ones keeps a field. -/
theorem and_nibble (v : Nibble) : v &&& 15#4 = v := by revert v; decide

theorem and_byte (v : Byte) : v &&& 255#8 = v := by revert v; decide

theorem mask_fmtNNN (op : Nibble) (nnn : Addr12) : fmtNNN op nnn &&& 0xF000#16 = fmtNNN op 0#12 := by
  rw [fmtNNN, show 0xF000#16 = (0xF#4 ++ 0x000#12 : BitVec 16) from rfl]
  refine Eq.trans BitVec.and_append ?_
  simp [fmtNNN, and_nibble]

theorem mask_fmtXNN_low (op x : Nibble) (nn : Byte) : fmtXNN op x nn &&& 0xF0FF#16 = fmtXNN op 0#4 nn := by
  rw [fmtXNN, show 0xF0FF#16 = (0xF#4 ++ 0x0#4 ++ 0xFF#8 : BitVec 16) from rfl]
  refine Eq.trans BitVec.and_append ?_
  rw [BitVec.and_append]
  simp [fmtXNN, and_nibble, and_byte]

theorem mask_fmtXNN (op x : Nibble) (nn : Byte) : fmtXNN op x nn &&& 0xF000#16 = fmtXNN op 0#4 0#8 := by
  rw [fmtXNN, show 0xF000#16 = (0xF#4 ++ 0x0#4 ++ 0x00#8 : BitVec 16) from rfl]
  refine Eq.trans BitVec.and_append ?_
  rw [BitVec.and_append]
  simp [fmtXNN, and_nibble]

theorem mask_fmtXYN (op x y n : Nibble) : fmtXYN op x y n &&& 0xF000#16 = fmtXYN op 0#4 0#4 0#4 := by
  rw [fmtXYN, show 0xF000#16 = (0xF#4 ++ 0x0#4 ++ 0x0#4 ++ 0x0#4 : BitVec 16) from rfl]
  refine Eq.trans BitVec.and_append ?_
  rw [BitVec.and_append, BitVec.and_append]
  simp [fmtXYN, and_nibble]

theorem mask_fmtXYN_low (op x y n : Nibble) : fmtXYN op x y n &&& 0xF00F#16 = fmtXYN op 0#4 0#4 n := by
  rw [fmtXYN, show 0xF00F#16 = (0xF#4 ++ 0x0#4 ++ 0x0#4 ++ 0xF#4 : BitVec 16) from rfl]
  refine Eq.trans BitVec.and_append ?_
  rw [BitVec.and_append, BitVec.and_append]
  simp [fmtXYN, and_nibble]

namespace Laws.OpcodeRow

/-- The instruction's word selects its row: `w and mask = match` (30_encoding.md R100). -/
def Statement (i : Instr) : Prop := encode i &&& i.row.1 = i.row.2

theorem sys (nnn : Addr12) : Statement (.sys nnn) := (mask_fmtNNN _ _).trans rfl
theorem cls : Statement .cls := rfl
theorem ret : Statement .ret := rfl
theorem jp (nnn : Addr12) : Statement (.jp nnn) := (mask_fmtNNN _ _).trans rfl
theorem call (nnn : Addr12) : Statement (.call nnn) := (mask_fmtNNN _ _).trans rfl
theorem seImm (x : Nibble) (nn : Byte) : Statement (.seImm x nn) := (mask_fmtXNN _ _ _).trans rfl
theorem sneImm (x : Nibble) (nn : Byte) : Statement (.sneImm x nn) := (mask_fmtXNN _ _ _).trans rfl
theorem seReg (x : Nibble) (y : Nibble) (n : Nibble) : Statement (.seReg x y n) := (mask_fmtXYN _ _ _ _).trans rfl
theorem ldImm (x : Nibble) (nn : Byte) : Statement (.ldImm x nn) := (mask_fmtXNN _ _ _).trans rfl
theorem addImm (x : Nibble) (nn : Byte) : Statement (.addImm x nn) := (mask_fmtXNN _ _ _).trans rfl
theorem ldReg (x : Nibble) (y : Nibble) : Statement (.ldReg x y) := (mask_fmtXYN_low _ _ _ _).trans rfl
theorem orReg (x : Nibble) (y : Nibble) : Statement (.orReg x y) := (mask_fmtXYN_low _ _ _ _).trans rfl
theorem andReg (x : Nibble) (y : Nibble) : Statement (.andReg x y) := (mask_fmtXYN_low _ _ _ _).trans rfl
theorem xorReg (x : Nibble) (y : Nibble) : Statement (.xorReg x y) := (mask_fmtXYN_low _ _ _ _).trans rfl
theorem addReg (x : Nibble) (y : Nibble) : Statement (.addReg x y) := (mask_fmtXYN_low _ _ _ _).trans rfl
theorem subReg (x : Nibble) (y : Nibble) : Statement (.subReg x y) := (mask_fmtXYN_low _ _ _ _).trans rfl
theorem shr (x : Nibble) (y : Nibble) : Statement (.shr x y) := (mask_fmtXYN_low _ _ _ _).trans rfl
theorem subn (x : Nibble) (y : Nibble) : Statement (.subn x y) := (mask_fmtXYN_low _ _ _ _).trans rfl
theorem shl (x : Nibble) (y : Nibble) : Statement (.shl x y) := (mask_fmtXYN_low _ _ _ _).trans rfl
theorem sneReg (x : Nibble) (y : Nibble) (n : Nibble) : Statement (.sneReg x y n) := (mask_fmtXYN _ _ _ _).trans rfl
theorem ldI (nnn : Addr12) : Statement (.ldI nnn) := (mask_fmtNNN _ _).trans rfl
theorem jpV0 (nnn : Addr12) : Statement (.jpV0 nnn) := (mask_fmtNNN _ _).trans rfl
theorem rnd (x : Nibble) (nn : Byte) : Statement (.rnd x nn) := (mask_fmtXNN _ _ _).trans rfl
theorem drw (x : Nibble) (y : Nibble) (n : Nibble) : Statement (.drw x y n) := (mask_fmtXYN _ _ _ _).trans rfl
theorem skp (x : Nibble) : Statement (.skp x) := (mask_fmtXNN_low _ _ _).trans rfl
theorem sknp (x : Nibble) : Statement (.sknp x) := (mask_fmtXNN_low _ _ _).trans rfl
theorem ldVxDt (x : Nibble) : Statement (.ldVxDt x) := (mask_fmtXNN_low _ _ _).trans rfl
theorem ldVxK (x : Nibble) : Statement (.ldVxK x) := (mask_fmtXNN_low _ _ _).trans rfl
theorem ldDtVx (x : Nibble) : Statement (.ldDtVx x) := (mask_fmtXNN_low _ _ _).trans rfl
theorem ldStVx (x : Nibble) : Statement (.ldStVx x) := (mask_fmtXNN_low _ _ _).trans rfl
theorem addI (x : Nibble) : Statement (.addI x) := (mask_fmtXNN_low _ _ _).trans rfl
theorem ldF (x : Nibble) : Statement (.ldF x) := (mask_fmtXNN_low _ _ _).trans rfl
theorem ldB (x : Nibble) : Statement (.ldB x) := (mask_fmtXNN_low _ _ _).trans rfl
theorem dump (x : Nibble) : Statement (.dump x) := (mask_fmtXNN_low _ _ _).trans rfl
theorem load (x : Nibble) : Statement (.load x) := (mask_fmtXNN_low _ _ _).trans rfl

end Laws.OpcodeRow

end Sys2Proof
end

