-- ==== Sys2Proof/Laws/Registers.lean ====
section
/-! SUPPORT. Laws/Registers.lean: reading a register, a key or a stack cell after each named update, and what a flag
write, a bulk load, a push and a pop can do. -/

namespace Sys2Proof.Machine

variable (s : State)

/-- Register writes and reads (10_state.md R21): no register is special. -/
@[simp] theorem State.reg_setReg (r q : Nibble) (v : Byte) :
    (s.setReg r v).reg q = if q = r then v else s.reg q := by
  simp only [State.reg, State.setReg, Vector.getElem_set, eq_comm (a := r.toNat), BitVec.toNat_inj]

@[simp] theorem State.reg_setRegFlag (r q : Nibble) (v : Byte) (f : Bool) :
    (s.setRegFlag r v f).reg q = if q = vf then flagByte f else if q = r then v else s.reg q := by
  simp [State.setRegFlag]

/-- A register read sees only the field `x`. -/
theorem State.reg_congr {s t : State} (h : t.x = s.x) (r : Nibble) : t.reg r = s.reg r := by
  simp only [State.reg, h]

@[simp] theorem State.reg_advance (r : Nibble) : s.advance.reg r = s.reg r := rfl
@[simp] theorem State.reg_jump (t : Word) (r : Nibble) : (s.jump t).reg r = s.reg r := rfl
@[simp] theorem State.reg_skipIf (c : Bool) (r : Nibble) : (s.skipIf c).reg r = s.reg r := by cases c <;> rfl
@[simp] theorem State.reg_storeBytes (a : Nat) (vs : List Byte) (r : Nibble) :
    (s.storeBytes a vs).reg r = s.reg r := rfl
@[simp] theorem State.reg_consumeRandom (r : Nibble) : s.consumeRandom.reg r = s.reg r :=
  State.reg_congr (s.consumeRandom_x) r
@[simp] theorem State.reg_raise (t : Trap) (w : Word) (r : Nibble) : (s.raise t w).reg r = s.reg r := rfl

/-- The registers after a fold of in-range writes by index. -/
theorem foldl_setIfInBounds_getElem (f : Nat → Byte) (n : Nat) (v : Vector Byte 16) (j : Nat) (hj : j < 16) :
    ((List.range n).foldl (fun v i => v.setIfInBounds i (f i)) v)[j] = if j < n then f j else v[j] := by
  induction n with
  | zero => simp
  | succ n ih =>
    rw [List.range_succ, List.foldl_append]
    simp only [List.foldl_cons, List.foldl_nil, Vector.getElem_setIfInBounds, ih]
    by_cases hn : n = j
    · simp [hn]
    · rw [if_neg hn]
      by_cases h : j < n
      · rw [if_pos h, if_pos (by omega)]
      · rw [if_neg h, if_neg (by omega)]

/-- A bulk load (45_memory_index.md R226): `x[0..r]` from memory, the registers above kept. -/
@[simp] theorem State.reg_loadRegs (a : Nat) (r q : Nibble) :
    (s.loadRegs a r).reg q = if q.toNat ≤ r.toNat then s.readByte (a + q.toNat) else s.reg q := by
  simp only [State.reg, State.loadRegs]
  rw [foldl_setIfInBounds_getElem (fun i => s.readByte (a + i)) _ _ _ q.isLt]
  simp only [Nat.lt_succ_iff]

/-- The registers of a bulk transfer, by position. -/
theorem State.regsUpTo_getElem? (r : Nibble) (j : Nibble) (h : j.toNat ≤ r.toNat) :
    (s.regsUpTo r)[j.toNat]? = some (s.reg j) := by
  have hj : j.toNat < 16 := j.isLt
  rw [State.regsUpTo, List.getElem?_take, if_pos (by omega), State.reg, Vector.getElem?_toList]
  exact Vector.getElem?_eq_getElem hj

@[simp] theorem State.regsUpTo_length (r : Nibble) : (s.regsUpTo r).length = r.toNat + 1 := by
  have : r.toNat < 16 := r.isLt
  simp only [State.regsUpTo, List.length_take, Vector.length_toList]
  omega

/-- Keys. -/
@[simp] theorem State.keyDown_setKey (k j : Nibble) (b : Bool) :
    (s.setKey k b).keyDown j = if j = k then b else s.keyDown j := by
  simp only [State.keyDown, State.setKey, Vector.getElem_set, eq_comm (a := k.toNat), BitVec.toNat_inj]

/-- Everything a push can do. -/
theorem State.push_cases (v : Word) :
    (∃ h : s.sp.val < 16, s.push v =
      some { s with stack := s.stack.set s.sp.val v h, sp := ⟨s.sp.val + 1, by omega⟩ }) ∨
    (s.sp.val = 16 ∧ s.push v = none) := by
  by_cases h : s.sp.val < 16
  · exact .inl ⟨h, by simp [State.push, h]⟩
  · exact .inr ⟨by omega, by simp [State.push, h]⟩

/-- Everything a pop can do. -/
theorem State.pop_cases :
    (∃ h : 0 < s.sp.val, s.pop =
      some (s.stack[s.sp.val - 1]'(by omega), { s with sp := ⟨s.sp.val - 1, by omega⟩ })) ∨
    (s.sp.val = 0 ∧ s.pop = none) := by
  by_cases h : 0 < s.sp.val
  · exact .inl ⟨h, by simp [State.pop, h]⟩
  · exact .inr ⟨by omega, by simp [State.pop, h]⟩

end Sys2Proof.Machine
end

