-- ==== Sys2Proof/Laws/Step.lean ====
section
/-! SUPPORT. Laws/Step.lean: everything a step and a cycle can do, and everything each instruction with more than one
outcome can do, said once. -/

namespace Sys2Proof.Machine

variable (s : State)

/-- With no driver operation pending a step is a cycle. -/
theorem step_of_idle {s : State} (h : s.driver = []) : step s = s.cycle := by
  simp [step, State.nextOp, h]

/-- With one pending a step performs the oldest. -/
theorem step_of_pending {s : State} {op : DriverOp} {rest : List DriverOp} (h : s.driver = op :: rest) :
    step s = State.perform { s with driver := rest } op := by
  simp [step, State.nextOp, h]

/-- When the next operation is a `Cycle`, pending or not, a step is the cycle of the state it begins in. -/
theorem State.BeginsCycle.step_eq {s c : State} (h : s.BeginsCycle c) : step s = c.cycle := by
  rcases h with ⟨h, rfl⟩ | ⟨rest, h, rfl⟩
  · exact step_of_idle h
  · exact step_of_pending h

/-- The two forms of the premise. -/
theorem State.beginsCycle_of_idle {s : State} (h : s.driver = []) : s.BeginsCycle s := .inl ⟨h, rfl⟩

theorem State.beginsCycle_of_pending {s : State} {rest : List DriverOp} (h : s.driver = .cycle :: rest) :
    s.BeginsCycle { s with driver := rest } := .inr ⟨rest, h, rfl⟩

/-- Everything a cycle can do (40_cycle.md R123, R126). -/
theorem State.cycle_cases :
    (s.fault ≠ 0#2 ∧ s.cycle = .next s) ∨
    (s.fault = 0#2 ∧ 0xFFE < s.pc.toNat ∧ s.cycle = .next (s.raise .fetch 0#16)) ∨
    (s.fault = 0#2 ∧ s.pc.toNat ≤ 0xFFE ∧ (∃ e, decode s.fetchWord = .error e) ∧
      s.cycle = .next (s.raise .invalidOpcode s.fetchWord)) ∨
    (s.fault = 0#2 ∧ s.pc.toNat ≤ 0xFFE ∧ ∃ i, decode s.fetchWord = .ok i ∧ s.cycle = exec i s) := by
  by_cases hf : s.fault = 0#2
  · have hh : s.halted = false := by simp [State.halted, hf]
    by_cases hp : s.pc.toNat ≤ 0xFFE
    · have ha : accessOk s.pc.toNat 2 = true := (accessOk_iff _ _).mpr (.inr (by omega))
      cases hd : decode s.fetchWord with
      | ok i => exact .inr (.inr (.inr ⟨hf, hp, i, rfl, by simp [State.cycle, hh, ha, hd]⟩))
      | error e => exact .inr (.inr (.inl ⟨hf, hp, ⟨e, rfl⟩, by simp [State.cycle, hh, ha, hd]⟩))
    · have ha : ¬ accessOk s.pc.toNat 2 = true := by rw [accessOk_iff]; omega
      exact .inr (.inl ⟨hf, by omega, by simp [State.cycle, hh, ha]⟩)
  · exact .inl ⟨hf, by simp [State.cycle, State.halted, hf]⟩

/-- Everything `CALL` can do (41_control_flow.md R143). -/
theorem execCall_cases (nnn : Addr12) :
    (∃ h : s.sp.val < 16, execCall nnn s = .next (State.jump { s.advance with
      stack := s.stack.set s.sp.val (s.pc + 2#16) h, sp := ⟨s.sp.val + 1, by omega⟩ } (zextAddr nnn))) ∨
    (s.sp.val = 16 ∧ execCall nnn s = .next (s.raise .stackOverflow (encode (.call nnn)))) := by
  rcases s.advance.push_cases s.advance.pc with ⟨h, e⟩ | ⟨h, e⟩
  · exact .inl ⟨h, by simp only [execCall, e]; rfl⟩
  · exact .inr ⟨h, by simp only [execCall, e]⟩

/-- Everything `RET` can do (41_control_flow.md R144). -/
theorem execRet_cases :
    (∃ h : 0 < s.sp.val, execRet s = .next (State.jump { s.advance with sp := ⟨s.sp.val - 1, by omega⟩ }
      (s.stack[s.sp.val - 1]'(by omega)))) ∨
    (s.sp.val = 0 ∧ execRet s = .next (s.raise .stackUnderflow (encode .ret))) := by
  rcases s.advance.pop_cases with ⟨h, e⟩ | ⟨h, e⟩
  · exact .inl ⟨h, by simp only [execRet, e]; rfl⟩
  · exact .inr ⟨h, by simp only [execRet, e]⟩

/-- The least pressed key: pressed, and no lower one is (44_timer_key.md R203). -/
theorem State.leastKey_eq_some {k : Nat} :
    s.leastKey = some k ↔ ∃ h : k < 16, s.key[k] = true ∧ ∀ j (hj : j < k), s.key[j] = false := by
  rw [State.leastKey, List.findIdx?_eq_some_iff_getElem]
  simp only [Vector.length_toList, id_eq, Vector.getElem_toList]
  constructor
  · rintro ⟨h, hk, hlt⟩
    exact ⟨h, hk, fun j hj => by simpa using hlt j hj⟩
  · rintro ⟨h, hk, hlt⟩
    exact ⟨h, hk, fun j hj => by simp [hlt j hj]⟩

/-- No least pressed key: no key is pressed. -/
theorem State.leastKey_eq_none : s.leastKey = none ↔ ∀ k : Nibble, s.keyDown k = false := by
  rw [State.leastKey, List.findIdx?_eq_none_iff]
  constructor
  · intro h k
    simpa using h (s.keyDown k) (by simp [State.keyDown])
  · intro h b hb
    obtain ⟨i, hi, rfl⟩ := List.getElem_of_mem hb
    have hi' : i < 16 := by simpa using hi
    have := h (BitVec.ofNat 4 i)
    simp only [State.keyDown, BitVec.toNat_ofNat, Nat.mod_eq_of_lt hi'] at this
    simpa using this

/-- Everything `LD Vx,K` can do (44_timer_key.md R203). A stall leaves `pc` at the instruction. -/
theorem execLdVxK_cases (x : Nibble) :
    (∃ k, s.latch = false ∧ s.leastKey = some k ∧
      execLdVxK x s = .next { s.advance.setReg x (BitVec.ofNat 8 k) with latch := true }) ∨
    ((s.latch = true ∨ s.leastKey = none) ∧
      execLdVxK x s = .next { s with drew := false, wait := true }) := by
  have stall : ({ s.advance with pc := s.advance.pc - 2#16, wait := true } : State) =
      { s with drew := false, wait := true } := by
    simp [State.advance]
  cases hl : s.latch with
  | true => exact .inr ⟨.inl rfl, by simp only [execLdVxK, State.qualifyingKey, hl, if_pos, stall]⟩
  | false =>
    cases hk : s.leastKey with
    | none => exact .inr ⟨.inr rfl, by simp [execLdVxK, State.qualifyingKey, hl, hk]⟩
    | some k => exact .inl ⟨k, rfl, rfl, by simp [execLdVxK, State.qualifyingKey, hl, hk]⟩

/-- Everything `DRW` can do (43_display.md R192). -/
theorem execDrw_cases (x y n : Nibble) :
    ((n = 0#4 ∨ s.I.toNat + n.toNat ≤ 4096) ∧ execDrw x y n s =
      .next ({ s.advance with fb := (s.sprite x y n).1, drew := true }.setReg vf (flagByte (s.sprite x y n).2))) ∨
    (n ≠ 0#4 ∧ 4096 < s.I.toNat + n.toNat ∧ execDrw x y n s = .next (s.raise .dataRead (encode (.drw x y n)))) := by
  have hz : n.toNat = 0 ↔ n = 0#4 := by rw [← BitVec.toNat_inj]; rfl
  by_cases h : accessOk (s.ea 0) n.toNat = true
  · have h' := (accessOk_iff _ _).mp h
    simp only [State.ea, Nat.add_zero] at h'
    exact .inl ⟨h'.imp_left hz.mp, by simp only [execDrw, h, if_true]⟩
  · have h' := mt (accessOk_iff _ _).mpr h
    simp only [State.ea, Nat.add_zero, not_or, not_le] at h'
    exact .inr ⟨mt hz.mpr h'.1, h'.2, by simp only [execDrw, if_neg h]⟩

/-- Everything `LD B,Vx` can do (45_memory_index.md R224). -/
theorem execLdB_cases (x : Nibble) :
    (s.I.toNat ≤ 0xFFD ∧ execLdB x s = .next (s.advance.storeBytes s.I.toNat (bcdDigits (s.reg x)))) ∨
    (0xFFD < s.I.toNat ∧ execLdB x s = .next (s.raise .dataWrite (encode (.ldB x)))) := by
  by_cases h : s.I.toNat ≤ 0xFFD
  · have ha : accessOk (s.ea 0) 3 = true := (accessOk_iff _ _).mpr (.inr (by simp only [State.ea]; omega))
    exact .inl ⟨h, by simp only [execLdB, ha, if_true]; rfl⟩
  · have ha : ¬ accessOk (s.ea 0) 3 = true := by rw [accessOk_iff]; simp only [State.ea]; omega
    exact .inr ⟨by omega, by simp only [execLdB, if_neg ha]⟩

/-- Everything `LD [I],Vx` can do (45_memory_index.md R225). -/
theorem execDump_cases (x : Nibble) :
    (s.I.toNat + x.toNat ≤ 0xFFF ∧ execDump x s = .next (s.advance.storeBytes s.I.toNat (s.regsUpTo x))) ∨
    (0xFFF < s.I.toNat + x.toNat ∧ execDump x s = .next (s.raise .dataWrite (encode (.dump x)))) := by
  by_cases h : s.I.toNat + x.toNat ≤ 0xFFF
  · have ha : accessOk (s.ea 0) (x.toNat + 1) = true := (accessOk_iff _ _).mpr (.inr (by simp only [State.ea]; omega))
    exact .inl ⟨h, by simp only [execDump, ha, if_true]; rfl⟩
  · have ha : ¬ accessOk (s.ea 0) (x.toNat + 1) = true := by rw [accessOk_iff]; simp only [State.ea]; omega
    exact .inr ⟨by omega, by simp only [execDump, if_neg ha]⟩

/-- Everything `LD Vx,[I]` can do (45_memory_index.md R226). -/
theorem execLoad_cases (x : Nibble) :
    (s.I.toNat + x.toNat ≤ 0xFFF ∧ execLoad x s = .next (s.advance.loadRegs s.I.toNat x)) ∨
    (0xFFF < s.I.toNat + x.toNat ∧ execLoad x s = .next (s.raise .dataRead (encode (.load x)))) := by
  by_cases h : s.I.toNat + x.toNat ≤ 0xFFF
  · have ha : accessOk (s.ea 0) (x.toNat + 1) = true := (accessOk_iff _ _).mpr (.inr (by simp only [State.ea]; omega))
    exact .inl ⟨h, by simp only [execLoad, ha, if_true]; rfl⟩
  · have ha : ¬ accessOk (s.ea 0) (x.toNat + 1) = true := by rw [accessOk_iff]; simp only [State.ea]; omega
    exact .inr ⟨by omega, by simp only [execLoad, if_neg ha]⟩

/-- One inverted pixel (10_state.md R32): it and no other changes. -/
theorem Display.pixel_flip (fb : Display) (px py qx qy : Nat) (hx : px < 64) (hy : py < 32) :
    (fb.flip px py).pixel qx qy = (fb.pixel qx qy ^^ decide (qx = px ∧ qy = py)) := by
  unfold Display.flip Display.pixel
  rw [dif_pos hy]
  by_cases h : qy = py
  · subst h
    rw [Vector.getElem?_set_self hy, Vector.getElem?_eq_getElem hy]
    simp [BitVec.getLsbD_twoPow, hx, eq_comm]
  · rw [Vector.getElem?_set_ne hy (fun e => h e.symm)]
    simp [h]

/-- One plotted sprite bit (43_display.md R192): XOR at its pixel, and a collision iff a set bit met a set pixel. -/
theorem plot_pixel (px py : Nat) (bit : Bool) (acc : Display × Bool) (qx qy : Nat) (hx : px < 64) (hy : py < 32) :
    (plot px py bit acc).1.pixel qx qy = (acc.1.pixel qx qy ^^ (bit && decide (qx = px ∧ qy = py))) := by
  cases bit
  · simp [plot]
  · simp [plot, Display.pixel_flip, hx, hy]

end Sys2Proof.Machine
end

