-- ==== Sys2Proof/Tests/Slice0.lean ====
section
/-! SUPPORT. Tests/Slice0.lean: the session's own tests. Words are written out bit by bit from 30_encoding.md R91 to R100;
expected results are the test vectors of 95_test_vectors.md, named in each comment. Then one witness for the hypotheses of
each obligation that has any. -/

namespace Sys2Proof.Tests

open Sys2Proof Sys2Proof.Machine

/-! ### Well-formedness: the two terms no word encodes (41_control_flow.md R141) -/

theorem test_illformed_sys_0E0 : (Instr.sys 0x0E0#12).wellFormed = false := by decide
theorem test_illformed_sys_0EE : (Instr.sys 0x0EE#12).wellFormed = false := by decide
theorem test_wellformed_sys_0E1 : (Instr.sys 0x0E1#12).wellFormed = true := by decide
theorem test_noncanonical_seReg : (Instr.seReg 1#4 2#4 7#4).wellFormed = true ∧ (Instr.seReg 1#4 2#4 7#4).canonical = false := by decide

/-! ### Decoding: a word of each instruction, nibble by nibble -/

theorem test_decode_sys : decode 0b0000_0001_0010_0011#16 = .ok (.sys 0x123#12) := by decide
theorem test_decode_cls : decode 0b0000_0000_1110_0000#16 = .ok .cls := by decide
theorem test_decode_ret : decode 0b0000_0000_1110_1110#16 = .ok .ret := by decide
theorem test_decode_jp : decode 0b0001_1010_1011_1100#16 = .ok (.jp 0xABC#12) := by decide
theorem test_decode_call : decode 0b0010_0010_0001_0000#16 = .ok (.call 0x210#12) := by decide
theorem test_decode_seImm : decode 0b0011_1010_0100_0010#16 = .ok (.seImm 0xA#4 0x42#8) := by decide
theorem test_decode_sneImm : decode 0b0100_1010_0100_0010#16 = .ok (.sneImm 0xA#4 0x42#8) := by decide
theorem test_decode_seReg : decode 0b0101_1010_1011_0111#16 = .ok (.seReg 0xA#4 0xB#4 0x7#4) := by decide
theorem test_decode_ldImm : decode 0b0110_1010_0010_1011#16 = .ok (.ldImm 0xA#4 0x2B#8) := by decide
theorem test_decode_addImm : decode 0b0111_1010_0000_0010#16 = .ok (.addImm 0xA#4 0x02#8) := by decide
theorem test_decode_ldReg : decode 0b1000_1010_1011_0000#16 = .ok (.ldReg 0xA#4 0xB#4) := by decide
theorem test_decode_orReg : decode 0b1000_1010_1011_0001#16 = .ok (.orReg 0xA#4 0xB#4) := by decide
theorem test_decode_andReg : decode 0b1000_1010_1011_0010#16 = .ok (.andReg 0xA#4 0xB#4) := by decide
theorem test_decode_xorReg : decode 0b1000_1010_1011_0011#16 = .ok (.xorReg 0xA#4 0xB#4) := by decide
theorem test_decode_addReg : decode 0b1000_1010_1011_0100#16 = .ok (.addReg 0xA#4 0xB#4) := by decide
theorem test_decode_subReg : decode 0b1000_1010_1011_0101#16 = .ok (.subReg 0xA#4 0xB#4) := by decide
theorem test_decode_shr : decode 0b1000_1010_1011_0110#16 = .ok (.shr 0xA#4 0xB#4) := by decide
theorem test_decode_subn : decode 0b1000_1010_1011_0111#16 = .ok (.subn 0xA#4 0xB#4) := by decide
theorem test_decode_shl : decode 0b1000_1010_1011_1110#16 = .ok (.shl 0xA#4 0xB#4) := by decide
theorem test_decode_sneReg : decode 0b1001_1010_1011_1111#16 = .ok (.sneReg 0xA#4 0xB#4 0xF#4) := by decide
theorem test_decode_ldI : decode 0b1010_0011_0000_0000#16 = .ok (.ldI 0x300#12) := by decide
theorem test_decode_jpV0 : decode 0b1011_0011_0000_0000#16 = .ok (.jpV0 0x300#12) := by decide
theorem test_decode_rnd : decode 0b1100_1010_0000_1111#16 = .ok (.rnd 0xA#4 0x0F#8) := by decide
theorem test_decode_drw : decode 0b1101_0001_0010_0101#16 = .ok (.drw 1#4 2#4 5#4) := by decide
theorem test_decode_skp : decode 0b1110_0011_1001_1110#16 = .ok (.skp 3#4) := by decide
theorem test_decode_sknp : decode 0b1110_0011_1010_0001#16 = .ok (.sknp 3#4) := by decide
theorem test_decode_ldVxDt : decode 0b1111_0110_0000_0111#16 = .ok (.ldVxDt 6#4) := by decide
theorem test_decode_ldVxK : decode 0b1111_0101_0000_1010#16 = .ok (.ldVxK 5#4) := by decide
theorem test_decode_ldDtVx : decode 0b1111_1010_0001_0101#16 = .ok (.ldDtVx 0xA#4) := by decide
theorem test_decode_ldStVx : decode 0b1111_1010_0001_1000#16 = .ok (.ldStVx 0xA#4) := by decide
theorem test_decode_addI : decode 0b1111_0010_0001_1110#16 = .ok (.addI 2#4) := by decide
theorem test_decode_ldF : decode 0b1111_0000_0010_1001#16 = .ok (.ldF 0#4) := by decide
theorem test_decode_ldB : decode 0b1111_0011_0011_0011#16 = .ok (.ldB 3#4) := by decide
theorem test_decode_dump : decode 0b1111_0010_0101_0101#16 = .ok (.dump 2#4) := by decide
theorem test_decode_load : decode 0b1111_0010_0110_0101#16 = .ok (.load 2#4) := by decide

/-- T-E10 to T-E14: invalid words of the three families that have any. -/
theorem test_invalid_words : [0x8008#16, 0x800F#16, 0x8AB8#16, 0xE09F#16, 0xE0A0#16, 0xE000#16, 0xF000#16, 0xF00B#16,
    0xF0FF#16, 0xF166#16, 0xFFFF#16].all (fun w => decide (decode w = .error (.invalidOpcode w))) = true := by decide

/-- T-E17: byte order, and the rest of the bytes returned. -/
theorem test_decode_bytes : decodeBytes [0x12#8, 0x08#8, 0xAA#8] = .ok (.jp 0x208#12, [0xAA#8]) ∧
    decodeBytes [0x12#8] = .error .truncated := by decide

theorem test_decode_table_word : decodeTableWord 16 0xD125 = some (.drw 1#4 2#4 5#4) ∧ decodeTableWord 16 0x8018 = none := by
  decide

/-- 30_encoding.md R104: the assembler spelling of P1's first word. -/
theorem test_asm : (Instr.ldImm 0xA#4 0x2B#8).asm = "LD VA,0x2B" := by decide +kernel

/-! ### One step from a small state -/

/-- One step on a word placed where the step fetches. -/
def one (w : Nat) (s : State) : Result := step (s.withFetchWord 16 w)

/-- What is seen in the next state. -/
def seen {α : Type} (f : State → α) : Result → Option α
  | .next t => some (f t)
  | .fault _ => none
  | .refused _ => none

/-- The fault record and `pc`. -/
def record (t : State) : Nat × Nat × Nat × Nat × Nat :=
  (t.fault.toNat, t.faultDetail.toNat, t.faultPc.toNat, t.faultWord.toNat, t.pc.toNat)

/-- A register and VF. -/
def regAndFlag (r : Nibble) (t : State) : Byte × Byte := (t.reg r, t.reg vf)

/-- The reset state with the shift parameter at its other value. -/
def resetY : State := { State.reset with params := { State.reset.params with shiftSrc := .y } }

/-- T-C1. -/
theorem test_sys : seen (·.pc) (one 0x0123 .reset) = some 0x0123#16 := by decide
/-- T-C2. -/
theorem test_jp : seen (·.pc) (one 0x1ABC .reset) = some 0x0ABC#16 := by decide
/-- T-C4. -/
theorem test_call : seen (fun t => (t.stackCell 0#4, t.sp, t.pc)) (one 0x2ABC { State.reset with pc := 0x0300 }) =
    some (0x0302#16, 1, 0x0ABC#16) := by decide
/-- T-C6. -/
theorem test_call_overflow : seen record (one 0x2400 { State.reset with pc := 0x020A, sp := 16 }) =
    some (2, 4, 0x020A, 0x2400, 0x020A) := by decide
/-- T-C7. -/
theorem test_ret : seen (fun t => (t.stackCell 0#4, t.sp, t.pc))
    (one 0x00EE { State.reset with sp := 1, stack := State.reset.stack.set 0 0x0302#16 }) = some (0x0302#16, 0, 0x0302#16) := by
  decide
/-- T-C9. -/
theorem test_ret_underflow : seen record (one 0x00EE .reset) = some (2, 5, 0x0200, 0x00EE, 0x0200) := by decide
/-- T-C10. -/
theorem test_seImm : seen (·.pc) (one 0x3A42 (State.reset.setReg 0xA#4 0x42#8)) = some 0x0204#16 := by decide
/-- T-C13. -/
theorem test_sneImm : seen (·.pc) (one 0x4A42 (State.reset.setReg 0xA#4 0x43#8)) = some 0x0204#16 := by decide
/-- T-C16. -/
theorem test_seReg : seen (·.pc) (one 0x5AB7 ((State.reset.setReg 0xA#4 0x07#8).setReg 0xB#4 0x07#8)) = some 0x0204#16 := by
  decide
/-- T-C19. -/
theorem test_sneReg : seen (·.pc) (one 0x9AB0 ((State.reset.setReg 0xA#4 0x07#8).setReg 0xB#4 0x08#8)) = some 0x0204#16 := by
  decide
/-- T-C22. -/
theorem test_jpV0 : seen (·.pc) (one 0xBFFF (State.reset.setReg 0#4 0xFF#8)) = some 0x10FE#16 := by decide
/-- T-C26. -/
theorem test_fetch_fault : seen record (step { State.reset with pc := 0x0FFF }) = some (2, 1, 0x0FFF, 0, 0x0FFF) := by decide
/-- T-X2: `drew` is kept by a fault. -/
theorem test_invalid_keeps_drew : seen (fun t => (record t, t.drew)) (one 0x8008 { State.reset with drew := true }) =
    some ((1, 0, 0x0200, 0x8008, 0x0200), true) := by decide

/-- S1. -/
theorem test_ldImm : seen (·.reg 0xA#4) (one 0x6A2B .reset) = some 0x2B#8 := by decide
/-- T-A3. -/
theorem test_addImm : seen (regAndFlag 0xA#4) (one 0x7A02 ((State.reset.setReg 0xA#4 0xFF#8).setReg vf 0x5A#8)) =
    some (0x01#8, 0x5A#8) := by decide
/-- T-A6. -/
theorem test_ldReg : seen (·.reg 0xA#4) (one 0x8AB0 (State.reset.setReg 0xB#4 0xC3#8)) = some 0xC3#8 := by decide
/-- T-A7. -/
theorem test_orReg : seen (regAndFlag 0xA#4)
    (one 0x8AB1 (((State.reset.setReg 0xA#4 0x0F#8).setReg 0xB#4 0xF0#8).setReg vf 0x07#8)) = some (0xFF#8, 0x07#8) := by decide
/-- T-A8. -/
theorem test_andReg : seen (·.reg 0xA#4) (one 0x8AB2 ((State.reset.setReg 0xA#4 0x3C#8).setReg 0xB#4 0x0F#8)) =
    some 0x0C#8 := by decide
/-- T-A9. -/
theorem test_xorReg : seen (·.reg 0xA#4) (one 0x8AB3 ((State.reset.setReg 0xA#4 0xFF#8).setReg 0xB#4 0x0F#8)) =
    some 0xF0#8 := by decide
/-- T-A11, T-A12: the carry at 256 and not at 255. -/
theorem test_addReg : seen (regAndFlag 0xA#4) (one 0x8AB4 ((State.reset.setReg 0xA#4 0xFF#8).setReg 0xB#4 0x01#8)) =
      some (0x00#8, 0x01#8) ∧
    seen (regAndFlag 0xA#4) (one 0x8AB4 ((State.reset.setReg 0xA#4 0x80#8).setReg 0xB#4 0x7F#8)) = some (0xFF#8, 0x00#8) := by
  decide
/-- T-A14: the flag overwrites the result. -/
theorem test_addReg_vf : seen (·.reg vf) (one 0x8FA4 ((State.reset.setReg vf 0xFF#8).setReg 0xA#4 0x02#8)) = some 0x01#8 := by
  decide
/-- S4, T-A18. -/
theorem test_subReg : seen (regAndFlag 0xA#4) (one 0x8AB5 ((State.reset.setReg 0xA#4 0x03#8).setReg 0xB#4 0x05#8)) =
      some (0xFE#8, 0x00#8) ∧
    seen (regAndFlag 0xA#4) (one 0x8AB5 ((State.reset.setReg 0xA#4 0x07#8).setReg 0xB#4 0x07#8)) = some (0x00#8, 0x01#8) := by
  decide
/-- T-A24. -/
theorem test_subn : seen (regAndFlag 0xA#4) (one 0x8AB7 ((State.reset.setReg 0xA#4 0x03#8).setReg 0xB#4 0x05#8)) =
    some (0x02#8, 0x01#8) := by decide
/-- T-A40, both columns. -/
theorem test_shr : seen (regAndFlag 0xA#4) (one 0x8AB6 ((State.reset.setReg 0xA#4 0x05#8).setReg 0xB#4 0x82#8)) =
      some (0x02#8, 0x01#8) ∧
    seen (regAndFlag 0xA#4) (one 0x8AB6 ((resetY.setReg 0xA#4 0x05#8).setReg 0xB#4 0x82#8)) = some (0x41#8, 0x00#8) := by decide
/-- T-A46, both columns. -/
theorem test_shl : seen (regAndFlag 0xA#4) (one 0x8ABE ((State.reset.setReg 0xA#4 0x81#8).setReg 0xB#4 0x40#8)) =
      some (0x02#8, 0x01#8) ∧
    seen (regAndFlag 0xA#4) (one 0x8ABE ((resetY.setReg 0xA#4 0x81#8).setReg 0xB#4 0x40#8)) = some (0x80#8, 0x00#8) := by decide
/-- T-A28, with `rnd` supplied. -/
theorem test_rnd : seen (·.reg 0xA#4) (one 0xCA0F { State.reset with rndIn := [0xB7#8] }) = some 0x07#8 := by decide

/-- T-D1. -/
theorem test_cls : seen (fun t => (t.fb == State.reset.fb, t.drew))
    (one 0x00E0 { State.reset with fb := State.reset.fb.set 7 0x20#64 }) = some (true, false) := by decide
/-- T-D3: both wraps. -/
theorem test_drw : seen (fun t => (t.fbBit 2047, t.fbBit 1984, t.fbBit 2046, t.reg vf, t.drew))
    (one 0xD121 ({ ((State.reset.setReg 1#4 0x3F#8).setReg 2#4 0x1F#8) with I := 0x0300 }.storeBytes 0x300 [0xC0#8])) =
    some (true, true, false, 0x00#8, true) := by decide
/-- T-D8: nothing drawn. -/
theorem test_drw_fault : seen (fun t => (record t, t.reg vf))
    (one 0xD122 { State.reset.setReg vf 0x09#8 with I := 0x0FFF }) = some ((2, 2, 0x0200, 0xD122, 0x0200), 0x09#8) := by decide

/-- T-K1. -/
theorem test_ldVxDt : seen (·.reg 6#4) (one 0xF607 { State.reset with DT := 0x2A }) = some 0x2A#8 := by decide
/-- T-K2. -/
theorem test_ldDtVx : seen (·.DT) (one 0xFA15 (State.reset.setReg 0xA#4 0xFF#8)) = some 0xFF#8 := by decide
/-- T-K4. -/
theorem test_ldStVx : seen (fun t => (t.ST, t.tone)) (one 0xFA18 (State.reset.setReg 0xA#4 0x01#8)) = some (0x01#8, true) := by
  decide
/-- T-K8: the least of three. -/
theorem test_ldVxK : seen (fun t => (t.reg 5#4, t.latch, t.pc))
    (one 0xF50A (((State.reset.keyPress 12#4).keyPress 7#4).keyPress 3#4)) = some (0x03#8, true, 0x0202#16) := by decide
/-- T-K9: a consumed key stalls. -/
theorem test_ldVxK_stall : seen (fun t => (t.reg 5#4, t.wait, t.pc))
    (one 0xF50A { (State.reset.setReg 5#4 0x33#8).keyPress 7#4 with latch := true }) = some (0x33#8, true, 0x0200#16) := by decide
/-- T-K14: the low nibble. -/
theorem test_skp : seen (·.pc) (one 0xE39E ((State.reset.setReg 3#4 0x17#8).keyPress 7#4)) = some 0x0204#16 := by decide
/-- T-K16. -/
theorem test_sknp : seen (·.pc) (one 0xE3A1 ((State.reset.setReg 3#4 0x07#8).keyPress 7#4)) = some 0x0202#16 := by decide

/-- T-M2. -/
theorem test_ldI : seen (·.I) (one 0xAFFF .reset) = some 0x0FFF#16 := by decide
/-- T-M3, T-M4. -/
theorem test_addI : seen (·.I) (one 0xF21E { State.reset.setReg 2#4 0x20#8 with I := 0x0FF0 }) = some 0x1010#16 ∧
    seen (fun t => (t.I, t.reg vf)) (one 0xF21E { (State.reset.setReg 2#4 0x01#8).setReg vf 0x07#8 with I := 0xFFFF }) =
      some (0x0000#16, 0x07#8) := by decide
/-- T-F1d. -/
theorem test_ldF : seen (·.I) (one 0xF029 (State.reset.setReg 0#4 0x1A#8)) = some 0x0082#16 := by decide
/-- T-M15: the last address that fits. -/
theorem test_ldB : seen (fun t => (t.readByte 0xFFD, t.readByte 0xFFE, t.readByte 0xFFF))
    (one 0xF333 { State.reset.setReg 3#4 0x7B#8 with I := 0x0FFD }) = some (0x01#8, 0x02#8, 0x03#8) := by decide
/-- T-M17 and its note: the digits are there, and the next fetch sees them. -/
theorem test_ldB_own_word : seen (·.fetchWord) (one 0xF333 { State.reset.setReg 3#4 0x12#8 with I := 0x0200 }) =
    some 0x0800#16 := by decide
/-- T-M20. -/
theorem test_dump : seen (fun t => (t.mem, t.I))
    (one 0xF255 { (((State.reset.setReg 0#4 1#8).setReg 1#4 5#8).setReg 2#4 7#8).setReg 3#4 9#8 with I := 0x0300 }) =
    some ([(0x200, 0xF2#8), (0x201, 0x55#8), (0x300, 1#8), (0x301, 5#8), (0x302, 7#8)], 0x0300#16) := by decide
/-- T-M22: not even the in-range byte is written. -/
theorem test_dump_fault : seen (fun t => (record t, t.readByte 0xFFF))
    (one 0xF155 { State.reset.setReg 0#4 0xAB#8 with I := 0x0FFF }) = some ((2, 3, 0x0200, 0xF155, 0x0200), 0#8) := by decide
/-- T-F3, its last four registers. -/
theorem test_load : seen (fun t => (t.reg 12#4, t.reg 13#4, t.reg 14#4, t.reg 15#4))
    (one 0xFF65 { State.reset with I := 0x0050 }) = some (0xF0#8, 0x80#8, 0xF0#8, 0xF0#8) := by decide
/-- T-M32. -/
theorem test_load_fault : seen record (one 0xF165 { State.reset with I := 0x0FFF }) = some (2, 2, 0x0200, 0xF165, 0x0200) := by
  decide

/-- T-O1, on the halted state of T-O4. -/
theorem test_timer_tick : seen (fun t => (t.DT, t.ST, t.tone, t.fault))
    (step { State.reset with DT := 2, ST := 1, fault := 2, driver := [.timerTick] }) = some (1#8, 0#8, false, 2#2) := by decide
/-- T-O3: a release of a key not down clears the latch. -/
theorem test_key_release : seen (fun t => (t.keyDown 4#4, t.keyDown 7#4, t.latch))
    (step { State.reset.keyPress 7#4 with latch := true, driver := [.keyRelease 4#4] }) = some (false, true, false) := by decide
/-- T-O2. -/
theorem test_key_press : seen (fun t => (t.keyDown 7#4, t.latch)) (step { State.reset with driver := [.keyPress 7#4] }) =
    some (true, false) := by decide
/-- T-R1, from a halted machine. -/
theorem test_reset_load : seen (fun t => (t.mem, t.readByte 0x050, t.pc, t.fault))
    (step { State.reset with fault := 1, pc := 0x0456, driver := [.reset [0x12#8, 0x00#8]] }) =
    some ([(0x200, 0x12#8)], 0xF0#8, 0x0200#16, 0#2) := by decide
/-- T-R5. -/
theorem test_reset_too_long (p : List Byte) (h : p.length = 3585) :
    seen (fun t => (record t, t.mem)) (step { State.reset with driver := [.reset p] }) = some ((3, 6, 0, 0, 0x0200), []) := by
  have h' : ¬ p.length ≤ Config.progMax := by rw [h]; decide
  simp only [step, State.nextOp, State.perform, State.load, h', if_false, seen]
  decide
/-- T-R3: the empty program jumps to 0. -/
theorem test_reset_first_cycle : seen record (step .reset) = some (0, 0, 0, 0, 0) := by decide

/-! ### Witnesses: states and operands that meet the hypotheses of each obligation together -/

/-- A state in the middle of a run: a call is live, the timers run, a key is down, a byte is stored. -/
def demo : State :=
  { ((State.reset.setReg 1#4 0x3F#8).setReg 15#4 0x09#8).storeBytes 0x300 [0xC0#8, 0x81#8] with
    pc := 0x0240, I := 0x0300, sp := 1, DT := 2, ST := 1, stack := State.reset.stack.set 0 0x0206#16,
    key := State.reset.key.set 7 true, drew := true }

/-- The middle of a run, about to execute a word. -/
def at_ (w : Nat) (s : State) : State := s.withFetchWord 16 w

/-- The middle of a run, halted. -/
def demoHalted : State := { demo with fault := 2, faultDetail := 1 }

theorem witness_DecodeOfEncode : (Instr.sys 0x0EF#12).wellFormed = true ∧ (Instr.drw 15#4 0#4 15#4).wellFormed = true := by
  decide

theorem witness_EncodeOfDecode : decode 0x5AB7#16 = .ok (.seReg 0xA#4 0xB#4 7#4) := by decide

/-- Both forms of the statement, at the last address an instruction can be fetched from. -/
theorem witness_StepRunsDecodedInstruction :
    let s := at_ 0x6A2B { demo with pc := 0x0FFE }
    s.Running ∧ s.pc.toNat ≤ 0xFFE ∧ s.readByte s.pc.toNat = 0x6A#8 ∧ s.readByte (s.pc.toNat + 1) = 0x2B#8 ∧
      decode (0x6A#8 ++ 0x2B#8) = .ok (.ldImm 0xA#4 0x2B#8) ∧ s.driver = [] ∧
      ({ s with driver := [.cycle, .timerTick] } : State).driver = .cycle :: [.timerTick] := by decide

theorem witness_FetchPastEndFaults :
    let c : State := { demo with pc := 0x0FFF }
    c.BeginsCycle c ∧ ({ c with driver := [.cycle] } : State).BeginsCycle c ∧ c.Running ∧ 0xFFE < c.pc.toNat :=
  ⟨.inl ⟨rfl, rfl⟩, .inr ⟨_, rfl, rfl⟩, by decide⟩

theorem witness_InvalidOpcodeFaults :
    let c := at_ 0x8008 demo
    c.BeginsCycle c ∧ ({ c with driver := [.cycle] } : State).BeginsCycle c ∧ c.Running ∧ c.pc.toNat ≤ 0xFFE ∧
      decode (c.readByte c.pc.toNat ++ c.readByte (c.pc.toNat + 1)) = .error (.invalidOpcode 0x8008#16) :=
  ⟨.inl ⟨rfl, rfl⟩, .inr ⟨_, rfl, rfl⟩, by decide⟩

theorem witness_HaltedUntilReset :
    ¬ demoHalted.Running ∧ demoHalted.BeginsCycle demoHalted ∧
      ({ demoHalted with driver := [.cycle] } : State).BeginsCycle demoHalted ∧
      ({ demoHalted with driver := [.keyRelease 7#4] } : State).driver = .keyRelease 7#4 :: [] ∧
      ∀ p, DriverOp.keyRelease 7#4 ≠ .reset p :=
  ⟨by decide, .inl ⟨rfl, rfl⟩, .inr ⟨_, rfl, rfl⟩, rfl, by intro p h; cases h⟩

theorem witness_FaultsArePrecise :
    let c := at_ 0x2400 { demo with sp := 16 }
    let t := c.raise .stackOverflow 0x2400#16
    ({ c with driver := [.cycle] } : State).BeginsCycle c ∧ c.Running ∧
      step { c with driver := [.cycle] } = .next t ∧ ¬ t.Running :=
  ⟨.inr ⟨_, rfl, rfl⟩, by decide, rfl, by decide⟩

theorem demo_inv : demo.Inv :=
  ⟨by decide, by decide, by decide, Or.inl (by decide), by decide⟩

/-- A halted state that meets the invariant: a call with the stack full. -/
theorem demoOverflow_inv : ((at_ 0x2400 { demo with sp := 16 }).raise .stackOverflow 0x2400#16).Inv :=
  ⟨by decide, by decide, by decide,
    Or.inr (Or.inr (Or.inl ⟨by decide, by decide,
      Or.inr (Or.inr (Or.inr (Or.inl ⟨by decide, by decide, 0x400#12, by decide⟩)))⟩)), by decide⟩

theorem witness_StepKeepsInv : demo.Inv ∧ ∃ t, step demo = .next t := ⟨demo_inv, _, rfl⟩

/-- A jump to an even target from a state whose live return address is even. -/
theorem witness_EvenPcStaysEven :
    let c := at_ 0x1ABC demo
    c.BeginsCycle c ∧ (∃ t, step c = .next t) ∧ c.pc.toNat % 2 = 0 ∧
      (∀ j : Nibble, j.toNat < c.sp.val → (c.stackCell j).toNat % 2 = 0) ∧
      decode c.fetchWord = .ok (.jp 0xABC#12) ∧ (0xABC#12).toNat % 2 = 0 :=
  ⟨.inl ⟨rfl, rfl⟩, ⟨_, rfl⟩, by decide⟩

/-- A stalling key wait. -/
theorem witness_WaitAndDrewSources :
    let c := at_ 0xF50A { demo with latch := true }
    c.BeginsCycle c ∧ c.Running ∧ seen (fun t => (t.fault, t.wait)) (step c) = some (0#2, true) :=
  ⟨.inl ⟨rfl, rfl⟩, by decide⟩

/-- A call: one of the writers of the stack. -/
theorem witness_OnlyItsWritersTouch :
    let c := at_ 0x2ABC demo
    c.BeginsCycle c ∧ seen (fun t => t.sp.val) (step c) = some 2 ∧ decode c.fetchWord = .ok (.call 0xABC#12) :=
  ⟨.inl ⟨rfl, rfl⟩, by decide⟩

/-- One cycle that writes a register, one that draws, one that stalls, one that faults: the clauses on the registers, the
flow and the fault registers. -/
theorem witness_OnlyItsWritersTouch_clauses :
    seen (·.reg 0xA#4) (step (at_ 0x6A2B demo)) = some 0x2B#8 ∧ demo.reg 0xA#4 ≠ 0x2B#8 ∧
      WritesReg (.ldImm 0xA#4 0x2B#8) 0xA#4 ∧
      seen (·.drew) (step (at_ 0xD122 { demo with drew := false })) = some true ∧
      seen (·.wait) (step (at_ 0xF50A { demo with latch := true })) = some true ∧
      seen (·.fault) (step (at_ 0x8008 demo)) = some 1#2 :=
  ⟨by decide, by decide, rfl, by decide, by decide, by decide⟩

/-- One instruction of each clause: it answers a next state and, for `DRW`, records no fault. -/
theorem witness_FlagWriters :
    seen (·.reg 15#4) (exec (.ldImm 15#4 0x77#8) demo) = some 0x77#8 ∧
    seen (·.reg 15#4) (exec (.subReg 1#4 2#4) demo) = some 1#8 ∧
    demo.Running ∧ seen (fun t => (t.fault, t.reg 15#4)) (exec (.drw 1#4 2#4 2#4) demo) = some (0#2, 0#8) := by decide

theorem witness_FinishedStays : (at_ 0x1240 demo).BeginsCycle (at_ 0x1240 demo) ∧ (at_ 0x1240 demo).Finished :=
  ⟨.inl ⟨rfl, rfl⟩, by decide, by decide, 0x240#12, by decide, by decide⟩

/-- A dump onto the next instruction, at the last place it fits. -/
theorem witness_StoreSeenByNextFetch :
    ({ demo with pc := 0x0FFC, I := 0x0FFE } : State).Inv ∧
    (let s : State := { demo with pc := 0x0FFC, I := 0x0FFE }
     s.pc.toNat ≤ 0xFFE ∧ s.I = s.pc + 2#16 ∧ 1 ≤ (1#4).toNat ∧ s.I.toNat + (1#4).toNat ≤ 0xFFF) :=
  ⟨⟨by decide, by decide, by decide, Or.inl (by decide), by decide⟩, by decide⟩

theorem witness_TimerTickCountsDown :
    ({ demoHalted with driver := [.timerTick, .cycle] } : State).driver = .timerTick :: [.cycle] := by decide

theorem witness_KeyPressSetsKey :
    ({ demo with driver := [.keyPress 15#4] } : State).driver = .keyPress 15#4 :: [] ∧ (0#4 : Nibble) ≠ 15#4 := by decide

theorem witness_KeyReleaseClearsLatch :
    ({ demo with driver := [.keyRelease 4#4], latch := true } : State).driver = .keyRelease 4#4 :: [] ∧
      (7#4 : Nibble) ≠ 4#4 := by decide

theorem witness_ReadingOutputsChangesNothing :
    ({ demo with driver := [.readOutputs, .cycle] } : State).driver = .readOutputs :: [.cycle] := rfl

/-- An odd program from a halted state; every clause has its own witness in it. -/
theorem witness_ProgramLoadedVerbatim :
    let p : List Byte := [0x12#8, 0x00#8, 0xAA#8]
    ({ demoHalted with driver := [.reset p] } : State).driver = .reset p :: [] ∧ p.length ≤ 3584 ∧ 2 < p.length ∧
      p = 0x12#8 :: 0x00#8 :: [0xAA#8] ∧ p.length % 2 = 1 := by decide

/-- The longest program, and the empty one. -/
theorem witness_ResetCreatesState :
    (∀ p : List Byte, ({ demoHalted with driver := [.reset p, .cycle] } : State).driver = .reset p :: [.cycle]) ∧
      (List.replicate 3584 0xAB#8).length ≤ 3584 ∧ ([] : List Byte).length ≤ 3584 :=
  ⟨fun _ => rfl, by rw [List.length_replicate], by decide⟩

theorem witness_LongProgramRefused :
    (∀ p : List Byte, ({ demo with driver := [.reset p] } : State).driver = .reset p :: []) ∧
      3584 < (List.replicate 3585 0xAB#8).length := ⟨fun _ => rfl, by rw [List.length_replicate]; decide⟩

/-- The operands next to the two words that are no `SYS`. -/
theorem witness_JumpsGoToTarget :
    (0x0E1#12 : Addr12) ≠ 0x0E0#12 ∧ (0x0E1#12 : Addr12) ≠ 0x0EE#12 ∧ (0x0EF#12 : Addr12) ≠ 0x0E0#12 ∧
      (0x0EF#12 : Addr12) ≠ 0x0EE#12 := by decide

/-- Both clauses where they meet. -/
theorem witness_CallPushesReturn :
    ({ demo with sp := 15 } : State).sp.val < 16 ∧ ({ demo with sp := 16 } : State).sp.val = 16 := by decide

/-- A return at depth 1 and at depth 16, and the empty stack. -/
theorem witness_ReturnPops :
    demo.sp.val = (0#4).toNat + 1 ∧ ({ demo with sp := 16 } : State).sp.val = (15#4).toNat + 1 ∧
      ({ demo with sp := 0 } : State).sp.val = 0 := by decide

/-- The deepest call: a call at depth 15, a register written, the return. -/
theorem witness_CallThenReturn :
    ∃ t u v, ({ demo with sp := 15 } : State).sp.val ≤ 15 ∧ exec (.call 0xABC#12) { demo with sp := 15 } = .next t ∧
      SameStack t u ∧ u.reg 3#4 ≠ t.reg 3#4 ∧ exec .ret u = .next v :=
  ⟨_, ({ demo with pc := 0x0300, sp := 16, stack := demo.stack.set 15 0x0242#16 } : State).setReg 3#4 0x55#8, _, by decide, rfl,
    ⟨by decide, by decide⟩, by decide, rfl⟩

/-- Both values of the parameter, with different registers, and `X = 15`. -/
theorem witness_ShiftsByOne :
    (demo.params.shiftSrc = .x ∧ (3#4 : Nibble) = 3#4) ∧ (resetY.params.shiftSrc = .y ∧ (15#4 : Nibble) = 15#4) ∧
      (3#4 : Nibble) ≠ 15#4 := by decide

theorem witness_RandomMasked :
    ({ demo with rndIn := [0xB7#8, 1#8] } : State).rndIn = 0xB7#8 :: [1#8] ∧ demo.rndIn = [] := by decide

/-- No row at the largest `I`, and the last place for 15 rows. -/
theorem witness_DrawXorsSprite :
    (0#4 : Nibble) = 0#4 ∧ ({ demo with I := 0x0FF1 } : State).I.toNat + (15#4).toNat - 1 ≤ 0xFFF := by decide

theorem witness_DrawPastEndFaults :
    (15#4 : Nibble) ≠ 0#4 ∧ 0xFFF < ({ demo with I := 0x0FF2 } : State).I.toNat + (15#4).toNat - 1 ∧
    (1#4 : Nibble) ≠ 0#4 ∧ 0xFFF < ({ demo with I := 0x1000 } : State).I.toNat + (1#4).toNat - 1 := by decide

theorem witness_DrawTwiceRestores :
    (1#4 : Nibble) ≠ 15#4 ∧ (2#4 : Nibble) ≠ 15#4 ∧ demo.I.toNat + (2#4).toNat - 1 ≤ 0xFFF ∧
      ∃ t u, exec (.drw 1#4 2#4 2#4) demo = .next t ∧ exec (.drw 1#4 2#4 2#4) t = .next u :=
  ⟨by decide, by decide, by decide, _, _, rfl, rfl⟩

/-- `X = 15`: the first draw writes VF, which is loaded again before the second. -/
theorem witness_RedrawRestores :
    ∃ t v, exec (.drw 15#4 2#4 2#4) demo = .next t ∧ SameDisplay t (t.setReg 15#4 0x09#8) ∧
      SameIndex demo (t.setReg 15#4 0x09#8) ∧
      (∀ r, r < (2#4).toNat → (t.setReg 15#4 0x09#8).readByte (demo.I.toNat + r) = demo.readByte (demo.I.toNat + r)) ∧
      ((t.setReg 15#4 0x09#8).reg 15#4).toNat % 64 = (demo.reg 15#4).toNat % 64 ∧
      ((t.setReg 15#4 0x09#8).reg 2#4).toNat % 32 = (demo.reg 2#4).toNat % 32 ∧
      demo.I.toNat + (2#4).toNat - 1 ≤ 0xFFF ∧ exec (.drw 15#4 2#4 2#4) (t.setReg 15#4 0x09#8) = .next v :=
  ⟨_, _, rfl, fun _ => rfl, rfl, fun _ _ => rfl, by decide, by decide, by decide, rfl⟩

/-- The hypotheses of the literal corner case meet, on a display where it fails: the sprite's one bit falls on a pixel
that is set, so the first draw unsets it and the second sets it again. -/
theorem witness_SecondDrawAlwaysCollides :
    let s : State := { (State.reset.storeBytes 0x300 [0x80#8]) with I := 0x0300, fb := State.reset.fb.set 0 1#64 }
    (1#4 : Nibble) ≠ 15#4 ∧ (2#4 : Nibble) ≠ 15#4 ∧ s.I.toNat + (1#4).toNat - 1 ≤ 0xFFF ∧
      (0 < (1#4).toNat ∧ s.readByte (s.I.toNat + 0) ≠ 0#8) ∧
      ∃ t u, exec (.drw 1#4 2#4 1#4) s = .next t ∧ exec (.drw 1#4 2#4 1#4) t = .next u :=
  ⟨by decide, by decide, by decide, by decide, _, _, rfl, rfl⟩

/-- One instruction of each clause. -/
theorem witness_NoInstructionReadsST :
    (∃ t, exec (.ldStVx 1#4) demo = .next t) ∧ (∃ t, exec (.ldVxDt 1#4) demo = .next t) ∧
      ∀ x, Instr.ldVxDt 1#4 ≠ .ldStVx x := ⟨⟨_, rfl⟩, ⟨_, rfl⟩, by decide⟩

theorem witness_KeyWaitCompletes :
    demo.latch = false ∧ demo.keyDown 7#4 = true ∧ ∀ j : Nibble, j.toNat < (7#4).toNat → demo.keyDown j = false := by decide

/-- Each of the two reasons to stall, without the other. -/
theorem witness_KeyWaitStalls :
    ({ demo with latch := true } : State).latch = true ∧ demo.keyDown 7#4 = true ∧ State.reset.latch = false ∧
      ∀ k, State.reset.keyDown k = false := by decide

theorem witness_StalledWaitIsFixed :
    let s := at_ 0xF50A { demo with latch := true }
    s.Running ∧ s.driver = [] ∧ s.pc.toNat ≤ 0xFFE ∧ decode s.fetchWord = .ok (.ldVxK 5#4) ∧ s.latch = true ∧
      ∃ t, step s = .next t :=
  ⟨by decide, by decide, by decide, by decide, by decide, _, rfl⟩

/-- A register whose high nibble is not zero. -/
theorem witness_SkipsOnKey : ((State.reset.setReg 3#4 0xF7#8).reg 3#4).toNat % 16 = (7#4).toNat := by decide

/-- The last place for three digits. -/
theorem witness_BcdStores :
    let s : State := { demo with I := 0x0FFD }
    Memory.wf s.params.fontRom s.mem ∧ s.I.toNat + 2 ≤ 0xFFF := by decide

/-- The last place for sixteen registers. -/
theorem witness_DumpStores :
    let s : State := { demo with I := 0x0FF0 }
    Memory.wf s.params.fontRom s.mem ∧ s.I.toNat + (15#4).toNat ≤ 0xFFF ∧ (15#4).toNat ≤ (15#4).toNat := by decide

theorem witness_LoadFills : ({ demo with I := 0x0FF0 } : State).I.toNat + (15#4).toNat ≤ 0xFFF := by decide

/-- The first address at which each transfer is refused. -/
theorem witness_TransfersPastEndFault :
    0xFFF < ({ demo with I := 0x0FFE } : State).I.toNat + 2 ∧
      0xFFF < ({ demo with I := 0x0FFF } : State).I.toNat + (1#4).toNat := by decide

theorem witness_DumpThenLoad :
    Memory.wf demo.params.fontRom demo.mem ∧ demo.I.toNat + (15#4).toNat ≤ 0xFFF ∧
      ∃ t u, exec (.dump 15#4) demo = .next t ∧ exec (.load 15#4) t = .next u :=
  ⟨by decide, by decide, _, _, rfl, rfl⟩

end Sys2Proof.Tests
end

section
/-! Control flow: the frame of an instruction that only chooses `pc`, and the jumps and the skips on an immediate
(41_control_flow.md R141, R142, R145, R146). -/

namespace Sys2Proof

/-! ### The words of the jumps and the skips on an immediate -/

/-- `00E0` and `00EE` are the only words of family 0 that are no `SYS` (30_encoding.md R95). -/
theorem decode_fmtNNN_sys {nnn : Addr12} (hcls : nnn ≠ 0x0E0#12) (hret : nnn ≠ 0x0EE#12) :
    decode (fmtNNN 0x0#4 nnn) = .ok (.sys nnn) := by
  have operand_eq : ∀ {k}, fmtNNN 0x0#4 nnn = fmtNNN 0x0#4 k → nnn = k := fun h => by
    simpa using congrArg fNNN h
  have hwcls : fmtNNN 0x0#4 nnn ≠ 0x00E0#16 := fun h => hcls (operand_eq h)
  have hwret : fmtNNN 0x0#4 nnn ≠ 0x00EE#16 := fun h => hret (operand_eq h)
  simp [decode, decode0, hwcls, hwret]

@[simp] theorem decode_fmtNNN_jp (nnn : Addr12) : decode (fmtNNN 0x1#4 nnn) = .ok (.jp nnn) := by
  simp [decode]

@[simp] theorem decode_fmtXNN_seImm (x : Nibble) (nn : Byte) :
    decode (fmtXNN 0x3#4 x nn) = .ok (.seImm x nn) := by
  simp [decode]

@[simp] theorem decode_fmtXNN_sneImm (x : Nibble) (nn : Byte) :
    decode (fmtXNN 0x4#4 x nn) = .ok (.sneImm x nn) := by
  simp [decode]

end Sys2Proof

namespace Sys2Proof.Machine

variable (s : State)

/-! ### An instruction that only chooses `pc` -/

theorem State.endAt_advance_jump (target : Word) : EndAt target (s.advance.jump target) := ⟨rfl, rfl, rfl⟩

theorem State.sameRegs_advance_jump (target : Word) : SameRegsExcept [] s (s.advance.jump target) := fun _ _ => rfl

theorem State.sameRest_advance_jump (target : Word) : SameRest s (s.advance.jump target) :=
  ⟨rfl, fun _ => rfl, ⟨rfl, fun _ => rfl⟩, ⟨rfl, rfl⟩, fun _ => rfl, ⟨fun _ => rfl, rfl⟩, ⟨rfl, rfl, rfl, rfl⟩,
    ⟨rfl, rfl⟩, ⟨rfl, rfl⟩⟩

/-- The whole effect of an instruction that only chooses `pc`, from the one equation that says so. -/
theorem exec_endAt_of_eq_jump {i : Instr} {s : State} {target : Word}
    (h : exec i s = .next (s.advance.jump target)) :
    ∃ t, exec i s = .next t ∧ EndAt target t ∧ SameRegsExcept [] s t ∧ SameRest s t :=
  ⟨_, h, s.endAt_advance_jump target, s.sameRegs_advance_jump target, s.sameRest_advance_jump target⟩

/-- A skip is a jump to one of two addresses: past the next instruction, or to it (41_control_flow.md R140). -/
theorem State.advance_skipIf (c : Bool) :
    s.advance.skipIf c = s.advance.jump (if c then s.pc + 4#16 else s.pc + 2#16) := by
  cases c with
  | false => rfl
  | true =>
    have two_words : s.pc + 2#16 + 2#16 = s.pc + 4#16 := BitVec.add_assoc ..
    exact congrArg s.advance.jump two_words

/-! ### The arms of `exec`, as jumps -/

theorem exec_sys (nnn : Addr12) : exec (.sys nnn) s = .next (s.advance.jump (zextAddr nnn)) := rfl

theorem exec_jp (nnn : Addr12) : exec (.jp nnn) s = .next (s.advance.jump (zextAddr nnn)) := rfl

theorem exec_seImm (x : Nibble) (nn : Byte) : exec (.seImm x nn) s =
    .next (s.advance.jump (if s.reg x = nn then s.pc + 4#16 else s.pc + 2#16)) := by
  change Host.Outcome.next (s.advance.skipIf (s.reg x == nn)) = _
  simp only [State.advance_skipIf, beq_iff_eq]

theorem exec_sneImm (x : Nibble) (nn : Byte) : exec (.sneImm x nn) s =
    .next (s.advance.jump (if s.reg x = nn then s.pc + 2#16 else s.pc + 4#16)) := by
  change Host.Outcome.next (s.advance.skipIf (s.reg x != nn)) = _
  simp only [State.advance_skipIf, bne_iff_ne, ite_not]

/-- A 12-bit address keeps its value when zero extended (41_control_flow.md R141, R142). -/
@[simp] theorem zextAddr_toNat (nnn : Addr12) : (zextAddr nnn).toNat = nnn.toNat :=
  BitVec.toNat_setWidth_of_le (by decide)

/-- The whole effect of a jump to an address `NNN`, `pc` as a number: `SYS` and `JP` share it (41_control_flow.md R141). -/
theorem exec_pc_toNat_of_eq_jump {i : Instr} {s : State} {nnn : Addr12}
    (h : exec i s = .next (s.advance.jump (zextAddr nnn))) :
    ∃ t, exec i s = .next t ∧ t.pc.toNat = nnn.toNat ∧ EndAt t.pc t ∧ SameRegsExcept [] s t ∧ SameRest s t := by
  obtain ⟨t, ht, ⟨hpc, hdrew, hwait⟩, hregs, hrest⟩ := exec_endAt_of_eq_jump h
  exact ⟨t, ht, by rw [hpc, zextAddr_toNat], ⟨rfl, hdrew, hwait⟩, hregs, hrest⟩

/-- Settles O28: both instructions are the jump to the zero-extended `NNN`. -/
theorem jumpsGoToTarget : Obligations.JumpsGoToTarget := fun nnn s =>
  ⟨decode_fmtNNN_sys, decode_fmtNNN_jp nnn, exec_pc_toNat_of_eq_jump (exec_sys s nnn),
    exec_pc_toNat_of_eq_jump (exec_jp s nnn)⟩

/-- Settles O32: each skip is a jump to the address its test selects. -/
theorem skipsOnImmediate : Obligations.SkipsOnImmediate := fun x nn s =>
  ⟨decode_fmtXNN_seImm x nn, decode_fmtXNN_sneImm x nn, exec_endAt_of_eq_jump (exec_seImm s x nn),
    exec_endAt_of_eq_jump (exec_sneImm s x nn)⟩

end Sys2Proof.Machine
end

section
/-! Arithmetic and logic: the frame of an instruction that writes one register, or a register and the flag, and the loads,
the sums, the bitwise operations and the differences (42_arith_logic.md R162 to R169, R171). -/

namespace Sys2Proof

/-! ### The words of the immediate forms and of family 8 -/

@[simp] theorem decode_fmtXNN_ldImm (x : Nibble) (nn : Byte) :
    decode (fmtXNN 0x6#4 x nn) = .ok (.ldImm x nn) := by
  simp [decode]

@[simp] theorem decode_fmtXNN_addImm (x : Nibble) (nn : Byte) :
    decode (fmtXNN 0x7#4 x nn) = .ok (.addImm x nn) := by
  simp [decode]

/-- A word of family 8 is read by its low nibble (30_encoding.md R96). -/
@[simp] theorem decode_fmtXYN_family8 (x y n : Nibble) :
    decode (fmtXYN 0x8#4 x y n) = decode8 (fmtXYN 0x8#4 x y n) := by
  simp [decode]

theorem decode_fmtXYN_ldReg (x y : Nibble) : decode (fmtXYN 0x8#4 x y 0x0#4) = .ok (.ldReg x y) := by
  simp [decode8]

theorem decode_fmtXYN_orReg (x y : Nibble) : decode (fmtXYN 0x8#4 x y 0x1#4) = .ok (.orReg x y) := by
  simp [decode8]

theorem decode_fmtXYN_andReg (x y : Nibble) : decode (fmtXYN 0x8#4 x y 0x2#4) = .ok (.andReg x y) := by
  simp [decode8]

theorem decode_fmtXYN_xorReg (x y : Nibble) : decode (fmtXYN 0x8#4 x y 0x3#4) = .ok (.xorReg x y) := by
  simp [decode8]

theorem decode_fmtXYN_addReg (x y : Nibble) : decode (fmtXYN 0x8#4 x y 0x4#4) = .ok (.addReg x y) := by
  simp [decode8]

theorem decode_fmtXYN_subReg (x y : Nibble) : decode (fmtXYN 0x8#4 x y 0x5#4) = .ok (.subReg x y) := by
  simp [decode8]

theorem decode_fmtXYN_subn (x y : Nibble) : decode (fmtXYN 0x8#4 x y 0x7#4) = .ok (.subn x y) := by
  simp [decode8]

end Sys2Proof

namespace Sys2Proof.Machine

/-! ### An instruction that writes general registers and ends the ordinary way -/

section
variable (s : State) (xs : Vector Byte 16) (x : Nibble) (v : Byte) (f : Bool)

/-- Whatever a cycle writes to the general registers, it ends at the next instruction. -/
theorem State.ordinaryEnd_advance_with_regs : OrdinaryEnd s { s.advance with x := xs } := ⟨rfl, rfl, rfl⟩

/-- Whatever a cycle writes to the general registers, every other state element stays. -/
theorem State.sameRest_advance_with_regs : SameRest s { s.advance with x := xs } :=
  ⟨rfl, fun _ => rfl, ⟨rfl, fun _ => rfl⟩, ⟨rfl, rfl⟩, fun _ => rfl, ⟨fun _ => rfl, rfl⟩, ⟨rfl, rfl, rfl, rfl⟩,
    ⟨rfl, rfl⟩, ⟨rfl, rfl⟩⟩

theorem State.sameRegs_advance_setReg : SameRegsExcept [x] s (s.advance.setReg x v) := fun q hq => by
  rw [State.reg_setReg, if_neg (mt List.mem_singleton.mpr hq), State.reg_advance]

theorem State.sameRegs_advance_setRegFlag : SameRegsExcept [x, 15#4] s (s.advance.setRegFlag x v f) := fun q hq => by
  obtain ⟨hx, hvf⟩ : q ≠ x ∧ q ≠ vf := by simpa [vf] using hq
  rw [State.reg_setRegFlag, if_neg hvf, if_neg hx, State.reg_advance]

end

section
variable {i : Instr} {s : State} {x : Nibble} {v : Byte} {f : Bool}

/-- The whole effect of an instruction that writes one register, from the one equation that says so. -/
theorem exec_writes_of_eq_setReg (h : exec i s = .next (s.advance.setReg x v)) :
    ∃ t, exec i s = .next t ∧ t.reg x = v ∧ SameRegsExcept [x] s t ∧ OrdinaryEnd s t ∧ SameRest s t :=
  ⟨_, h, by rw [State.reg_setReg, if_pos rfl], s.sameRegs_advance_setReg x v, s.ordinaryEnd_advance_with_regs _,
    s.sameRest_advance_with_regs _⟩

/-- The same with the result bit by bit: `OR`, `AND` and `XOR` share it. -/
theorem exec_bits_of_eq_setReg {b : Nat → Bool} (h : exec i s = .next (s.advance.setReg x v))
    (hv : ∀ k, v.getLsbD k = b k) :
    ∃ t, exec i s = .next t ∧ (∀ k, k < 8 → (t.reg x).getLsbD k = b k) ∧
      SameRegsExcept [x] s t ∧ OrdinaryEnd s t ∧ SameRest s t := by
  obtain ⟨t, ht, hx, hframe⟩ := exec_writes_of_eq_setReg h
  exact ⟨t, ht, fun k _ => by rw [hx, hv], hframe⟩

/-- The whole effect of an instruction that writes one register and the flag; with `X = 15` the flag wins
(10_state.md R23). -/
theorem exec_writes_of_eq_setRegFlag (h : exec i s = .next (s.advance.setRegFlag x v f)) :
    ∃ t, exec i s = .next t ∧ (x ≠ 15#4 → t.reg x = v) ∧ t.reg 15#4 = flagByte f ∧
      SameRegsExcept [x, 15#4] s t ∧ OrdinaryEnd s t ∧ SameRest s t := by
  have result : x ≠ vf → (s.advance.setRegFlag x v f).reg x = v := fun hx => by
    rw [State.reg_setRegFlag, if_neg hx, if_pos rfl]
  have flag : (s.advance.setRegFlag x v f).reg vf = flagByte f := by rw [State.reg_setRegFlag, if_pos rfl]
  exact ⟨_, h, result, flag, s.sameRegs_advance_setRegFlag x v f, s.ordinaryEnd_advance_with_regs _,
    s.sameRest_advance_with_regs _⟩

end

/-! ### The flags and the difference as numbers -/

theorem flagByte_decide (p : Prop) [Decidable p] : flagByte (decide p) = if p then 1#8 else 0#8 := by
  by_cases hp : p <;> simp [flagByte, hp]

/-- 8-bit subtraction is the integer difference modulo 256 (42_arith_logic.md R169). -/
theorem toNat_sub_byte (a b : Byte) : ((a - b).toNat : Int) = ((a.toNat : Int) - b.toNat) % 256 := by
  have hb : b.toNat < 256 := b.isLt
  rw [BitVec.toNat_sub]
  omega

/-- The whole effect of a subtraction `a - b` with the not-borrow in VF: `SUB` and `SUBN` share it
(42_arith_logic.md R169, R171). -/
theorem exec_difference_of_eq_setRegFlag {i : Instr} {s : State} {x : Nibble} {a b : Byte}
    (h : exec i s = .next (s.advance.setRegFlag x (a - b) (notBorrow a b))) :
    ∃ t, exec i s = .next t ∧
      (x ≠ 15#4 → ((t.reg x).toNat : Int) = ((a.toNat : Int) - b.toNat) % 256) ∧
      (t.reg 15#4 = if b.toNat ≤ a.toNat then 1#8 else 0#8) ∧
      SameRegsExcept [x, 15#4] s t ∧ OrdinaryEnd s t ∧ SameRest s t := by
  obtain ⟨t, ht, hx, hflag, hframe⟩ := exec_writes_of_eq_setRegFlag h
  exact ⟨t, ht, fun hne => by rw [hx hne, toNat_sub_byte], hflag.trans (flagByte_decide _), hframe⟩

/-! ### The arms of `exec`, as register writes -/

section
variable (s : State) (x y : Nibble) (nn : Byte)

theorem exec_ldImm : exec (.ldImm x nn) s = .next (s.advance.setReg x nn) := rfl

theorem exec_addImm : exec (.addImm x nn) s = .next (s.advance.setReg x (s.reg x + nn)) := rfl

theorem exec_ldReg : exec (.ldReg x y) s = .next (s.advance.setReg x (s.reg y)) := rfl

theorem exec_orReg : exec (.orReg x y) s = .next (s.advance.setReg x (s.reg x ||| s.reg y)) := rfl

theorem exec_andReg : exec (.andReg x y) s = .next (s.advance.setReg x (s.reg x &&& s.reg y)) := rfl

theorem exec_xorReg : exec (.xorReg x y) s = .next (s.advance.setReg x (s.reg x ^^^ s.reg y)) := rfl

theorem exec_addReg : exec (.addReg x y) s =
    .next (s.advance.setRegFlag x (s.reg x + s.reg y) (carryOf (s.reg x) (s.reg y))) := rfl

theorem exec_subReg : exec (.subReg x y) s =
    .next (s.advance.setRegFlag x (s.reg x - s.reg y) (notBorrow (s.reg x) (s.reg y))) := rfl

theorem exec_subn : exec (.subn x y) s =
    .next (s.advance.setRegFlag x (s.reg y - s.reg x) (notBorrow (s.reg y) (s.reg x))) := rfl

end

/-- Settles O35: each instruction writes its one register, and 8-bit addition is the sum modulo 256. -/
theorem loadsAndImmediateAdd : Obligations.LoadsAndImmediateAdd := fun x y nn s => by
  obtain ⟨t, ht, hsum, hframe⟩ := exec_writes_of_eq_setReg (exec_addImm s x nn)
  exact ⟨decode_fmtXNN_ldImm x nn, decode_fmtXNN_addImm x nn, decode_fmtXYN_ldReg x y,
    exec_writes_of_eq_setReg (exec_ldImm s x nn), ⟨t, ht, by rw [hsum, BitVec.toNat_add], hframe⟩,
    exec_writes_of_eq_setReg (exec_ldReg s x y)⟩

/-- Settles O36: each instruction writes its one register, with the bitwise operation of the old values. -/
theorem logicBitByBit : Obligations.LogicBitByBit := fun x y s =>
  ⟨decode_fmtXYN_orReg x y, decode_fmtXYN_andReg x y, decode_fmtXYN_xorReg x y,
    exec_bits_of_eq_setReg (exec_orReg s x y) fun _ => BitVec.getLsbD_or,
    exec_bits_of_eq_setReg (exec_andReg s x y) fun _ => BitVec.getLsbD_and,
    exec_bits_of_eq_setReg (exec_xorReg s x y) fun _ => BitVec.getLsbD_xor⟩

/-- Settles O37: the flag written last is the carry of the old values. -/
theorem addWithCarryOut : Obligations.AddWithCarryOut := fun x y s => by
  obtain ⟨t, ht, hsum, hflag, hframe⟩ := exec_writes_of_eq_setRegFlag (exec_addReg s x y)
  exact ⟨decode_fmtXYN_addReg x y, t, ht, fun hne => by rw [hsum hne, BitVec.toNat_add],
    hflag.trans (flagByte_decide _), hframe⟩

/-- Settles O38: both are one subtraction, with the operands one way round or the other. -/
theorem subtractNotBorrow : Obligations.SubtractNotBorrow := fun x y s =>
  ⟨decode_fmtXYN_subReg x y, decode_fmtXYN_subn x y, exec_difference_of_eq_setRegFlag (exec_subReg s x y),
    exec_difference_of_eq_setRegFlag (exec_subn s x y)⟩

end Sys2Proof.Machine
end

section
/-! Display: the blank display, the frame of an instruction that writes only the display, and the clear
(43_display.md R191). -/

namespace Sys2Proof

theorem decode_cls : decode 0x00E0#16 = .ok .cls := by decide

end Sys2Proof

namespace Sys2Proof.Machine

/-- No pixel of the blank display is set; a row past the last one reads as zero too. -/
@[simp] theorem Display.pixel_blank (px py : Nat) :
    Display.pixel (Vector.replicate 32 0#64) px py = false := by
  have row_eq_zero : ((Vector.replicate 32 0#64)[py]?).getD 0#64 = 0#64 := by
    rw [Vector.getElem?_replicate]
    split <;> rfl
  rw [Display.pixel, row_eq_zero, BitVec.getLsbD_zero]

section
variable (s : State)

/-- Whatever a cycle writes to the display, if it writes nothing else it ends at the next instruction and every other
state element stays. -/
theorem State.frame_advance_with_fb (fb : Display) :
    let t := { s.advance with fb := fb }
    SameRegsExcept [] s t ∧ OrdinaryEnd s t ∧ SameIndex s t ∧ SameMemory s t ∧ SameStack s t ∧ SameTimers s t ∧
      SameKeys s t ∧ SameFault s t ∧ SameRandom s t ∧ SameOutside s t :=
  ⟨fun _ _ => rfl, ⟨rfl, rfl, rfl⟩, rfl, fun _ => rfl, ⟨rfl, fun _ => rfl⟩, ⟨rfl, rfl⟩, ⟨fun _ => rfl, rfl⟩,
    ⟨rfl, rfl, rfl, rfl⟩, ⟨rfl, rfl⟩, ⟨rfl, rfl⟩⟩

theorem exec_cls : exec .cls s = .next { s.advance with fb := Vector.replicate 32 0#64 } := rfl

end

/-- Settles O41: the clear writes the blank display and nothing else. -/
theorem clearDisplay : Obligations.ClearDisplay := fun s =>
  ⟨decode_cls, _, exec_cls s, fun _ => Display.pixel_blank _ _, s.frame_advance_with_fb _⟩

end Sys2Proof.Machine
end

section
/-! Timers: the words of family F, the frame of an instruction that writes only a timer, the tone, and the timer transfers
(44_timer_key.md R200 to R202). -/

namespace Sys2Proof

/-! ### The words of family F -/

/-- A word of family F is read by its low byte (30_encoding.md R98). -/
@[simp] theorem decode_fmtXNN_familyF (x : Nibble) (nn : Byte) :
    decode (fmtXNN 0xF#4 x nn) = decodeF (fmtXNN 0xF#4 x nn) := by
  simp [decode]

theorem decode_fmtXNN_ldVxDt (x : Nibble) : decode (fmtXNN 0xF#4 x 0x07#8) = .ok (.ldVxDt x) := by
  simp [decodeF]

theorem decode_fmtXNN_ldDtVx (x : Nibble) : decode (fmtXNN 0xF#4 x 0x15#8) = .ok (.ldDtVx x) := by
  simp [decodeF]

theorem decode_fmtXNN_ldStVx (x : Nibble) : decode (fmtXNN 0xF#4 x 0x18#8) = .ok (.ldStVx x) := by
  simp [decodeF]

end Sys2Proof

namespace Sys2Proof.Machine

section
variable (s : State) (x : Nibble)

/-- The tone sounds exactly while the sound timer is not 0 (60_exceptions.md R258). -/
theorem State.tone_iff : s.tone = true ↔ s.ST ≠ 0#8 := by
  rw [State.tone, decide_eq_true_iff, BitVec.pos_iff_ne_zero]

/-- Whatever a cycle writes to the timers, if it writes nothing else it ends at the next instruction and every other
state element stays. -/
theorem State.frame_advance_with_timers (dt st : Byte) :
    let t := { s.advance with DT := dt, ST := st }
    SameRegsExcept [] s t ∧ OrdinaryEnd s t ∧ SameIndex s t ∧ SameMemory s t ∧ SameStack s t ∧ SameDisplay s t ∧
      SameKeys s t ∧ SameFault s t ∧ SameRandom s t ∧ SameOutside s t :=
  ⟨fun _ _ => rfl, ⟨rfl, rfl, rfl⟩, rfl, fun _ => rfl, ⟨rfl, fun _ => rfl⟩, fun _ => rfl, ⟨fun _ => rfl, rfl⟩,
    ⟨rfl, rfl, rfl, rfl⟩, ⟨rfl, rfl⟩, ⟨rfl, rfl⟩⟩

/-! ### The arms of `exec`, as register and timer writes -/

theorem exec_ldVxDt : exec (.ldVxDt x) s = .next (s.advance.setReg x s.DT) := rfl

theorem exec_ldDtVx : exec (.ldDtVx x) s = .next { s.advance with DT := s.reg x } := rfl

theorem exec_ldStVx : exec (.ldStVx x) s = .next { s.advance with ST := s.reg x } := rfl

end

/-- Settles O47: one instruction writes its register, the others write one timer, and the tone follows `ST`. -/
theorem timerTransfers : Obligations.TimerTransfers := fun x s =>
  ⟨decode_fmtXNN_ldVxDt x, decode_fmtXNN_ldDtVx x, decode_fmtXNN_ldStVx x,
    exec_writes_of_eq_setReg (exec_ldVxDt s x),
    ⟨_, exec_ldDtVx s x, rfl, rfl, s.frame_advance_with_timers _ _⟩,
    ⟨_, exec_ldStVx s x, rfl, State.tone_iff _, rfl, s.frame_advance_with_timers _ _⟩⟩

end Sys2Proof.Machine
end

section
/-! Reset: the memory after a load, and the program loaded verbatim (70_reset_and_hazards.md R280, R284). -/

namespace Sys2Proof.Machine

/-- Past the font table the reset content is zero (20_memory.md R62). -/
theorem Memory.resetByte_of_font_end_le (rom : FontRom) {a : Nat} (ha : 0x0A0 ≤ a) :
    Memory.resetByte rom a = 0#8 := by
  have past_font : rom[a - Config.fontBase]? = none :=
    Vector.getElem?_eq_none (show 80 ≤ a - 0x050 by omega)
  rw [Memory.resetByte, past_font]
  exact ite_self _

/-- With a pending reset a step is the load, by a machine that has taken the operation from its queue. -/
theorem step_of_pending_reset {s : State} {p : List Byte} {rest : List DriverOp}
    (h : s.driver = .reset p :: rest) : step s = .next (State.load { s with driver := rest } p) :=
  step_of_pending h

section
variable (s : State) {p : List Byte} (hp : p.length ≤ 3584)
include hp

/-- A program that fits is stored at 0x200 in a state created anew (70_reset_and_hazards.md R280). -/
theorem State.load_of_fits : s.load p =
    State.storeBytes { State.powerOn s.params with rndIn := s.rndIn, draws := s.draws, driver := s.driver } 0x200 p :=
  if_pos hp

/-- A reset with a program that fits starts at the program's first byte (70_reset_and_hazards.md R280). -/
theorem State.load_pc : (s.load p).pc = 0x0200#16 := by
  rw [s.load_of_fits hp, State.storeBytes_pc]
  rfl

/-- All of memory after the load of a program that fits: the program from 0x200 on, zero after it, and the reset content
below (70_reset_and_hazards.md R280, R284). -/
theorem State.readByte_load (a : Nat) : (s.load p).readByte a =
    if 0x200 ≤ a then (p[a - 0x200]?).getD 0#8 else Memory.resetByte s.params.fontRom a := by
  rw [s.load_of_fits hp, State.readByte_storeBytes _ .nil 0x200 p (by omega)]
  by_cases ha : 0x200 ≤ a
  · rw [if_pos ha, if_pos ha]
    exact congrArg _ (Memory.resetByte_of_font_end_le s.params.fontRom (by omega))
  · rw [if_neg ha, if_neg ha]
    rfl

/-- The same by the offset into the program: its bytes verbatim, then zero. -/
theorem State.readByte_load_progBase_add (j : Nat) : (s.load p).readByte (0x200 + j) = (p[j]?).getD 0#8 := by
  rw [s.readByte_load hp, if_pos (by omega), Nat.add_sub_cancel_left]

end

/-- The first fetch after a reset reads the program's first two bytes, the first in the high half (20_memory.md R67). -/
theorem State.fetchWord_load (s : State) {b c : Byte} {q : List Byte} (hp : (b :: c :: q).length ≤ 3584) :
    (s.load (b :: c :: q)).fetchWord = b ++ c := by
  have first : (s.load (b :: c :: q)).readByte 0x200 = b := s.readByte_load_progBase_add hp 0
  have second : (s.load (b :: c :: q)).readByte 0x201 = c := s.readByte_load_progBase_add hp 1
  rw [State.fetchWord, s.load_pc hp]
  exact congrArg₂ wordOfBytes first second

/-- Settles O25: the step is the load, whose memory reads as the program's bytes and then zero. -/
theorem programLoadedVerbatim : Obligations.ProgramLoadedVerbatim := fun s p rest hpending hp => by
  refine ⟨_, step_of_pending_reset hpending, fun j hj => ?verbatim, fun b c q hbc => ?firstWord, fun _ _ => ?afterEnd⟩
  case verbatim => rw [State.readByte_load_progBase_add _ hp, List.getElem?_eq_getElem hj, Option.getD_some]
  case firstWord =>
    subst hbc
    exact ⟨State.load_pc _ hp, State.fetchWord_load _ hp⟩
  case afterEnd =>
    rw [State.readByte_load_progBase_add _ hp, List.getElem?_eq_none (Nat.le_refl _), Option.getD_none]

end Sys2Proof.Machine
end

section
/-! Decoding: the words of the remaining instructions, the round trips, the invalid words and the opcode map
(30_encoding.md R94 to R101). -/

namespace Sys2Proof

/-! ### The words of the remaining instructions -/

theorem decode_ret : decode 0x00EE#16 = .ok .ret := by decide

theorem decode_fmtNNN_call (nnn : Addr12) : decode (fmtNNN 0x2#4 nnn) = .ok (.call nnn) := by
  simp [decode]

theorem decode_fmtNNN_ldI (nnn : Addr12) : decode (fmtNNN 0xA#4 nnn) = .ok (.ldI nnn) := by
  simp [decode]

theorem decode_fmtNNN_jpV0 (nnn : Addr12) : decode (fmtNNN 0xB#4 nnn) = .ok (.jpV0 nnn) := by
  simp [decode]

theorem decode_fmtXNN_rnd (x : Nibble) (nn : Byte) : decode (fmtXNN 0xC#4 x nn) = .ok (.rnd x nn) := by
  simp [decode]

theorem decode_fmtXYN_seReg (x y n : Nibble) : decode (fmtXYN 0x5#4 x y n) = .ok (.seReg x y n) := by
  simp [decode]

theorem decode_fmtXYN_sneReg (x y n : Nibble) : decode (fmtXYN 0x9#4 x y n) = .ok (.sneReg x y n) := by
  simp [decode]

theorem decode_fmtXYN_drw (x y n : Nibble) : decode (fmtXYN 0xD#4 x y n) = .ok (.drw x y n) := by
  simp [decode]

theorem decode_fmtXYN_shr (x y : Nibble) : decode (fmtXYN 0x8#4 x y 0x6#4) = .ok (.shr x y) := by
  simp [decode8]

theorem decode_fmtXYN_shl (x y : Nibble) : decode (fmtXYN 0x8#4 x y 0xE#4) = .ok (.shl x y) := by
  simp [decode8]

/-- A word of family E is read by its low byte (30_encoding.md R97). -/
@[simp] theorem decode_fmtXNN_familyE (x : Nibble) (nn : Byte) :
    decode (fmtXNN 0xE#4 x nn) = decodeE (fmtXNN 0xE#4 x nn) := by
  simp [decode]

theorem decode_fmtXNN_skp (x : Nibble) : decode (fmtXNN 0xE#4 x 0x9E#8) = .ok (.skp x) := by
  simp [decodeE]

theorem decode_fmtXNN_sknp (x : Nibble) : decode (fmtXNN 0xE#4 x 0xA1#8) = .ok (.sknp x) := by
  simp [decodeE]

theorem decode_fmtXNN_ldVxK (x : Nibble) : decode (fmtXNN 0xF#4 x 0x0A#8) = .ok (.ldVxK x) := by
  simp [decodeF]

theorem decode_fmtXNN_addI (x : Nibble) : decode (fmtXNN 0xF#4 x 0x1E#8) = .ok (.addI x) := by
  simp [decodeF]

theorem decode_fmtXNN_ldF (x : Nibble) : decode (fmtXNN 0xF#4 x 0x29#8) = .ok (.ldF x) := by
  simp [decodeF]

theorem decode_fmtXNN_ldB (x : Nibble) : decode (fmtXNN 0xF#4 x 0x33#8) = .ok (.ldB x) := by
  simp [decodeF]

theorem decode_fmtXNN_dump (x : Nibble) : decode (fmtXNN 0xF#4 x 0x55#8) = .ok (.dump x) := by
  simp [decodeF]

theorem decode_fmtXNN_load (x : Nibble) : decode (fmtXNN 0xF#4 x 0x65#8) = .ok (.load x) := by
  simp [decodeF]

/-- Settles O1: by the word of each instruction; well-formedness is used by `SYS` alone. -/
theorem decodeOfEncode : Obligations.DecodeOfEncode := fun i hwf =>
  match i with
  | .sys nnn => by
    obtain ⟨hcls, hret⟩ : nnn ≠ 0x0E0#12 ∧ nnn ≠ 0x0EE#12 := by simpa [Instr.wellFormed] using hwf
    exact decode_fmtNNN_sys hcls hret
  | .cls => decode_cls
  | .ret => decode_ret
  | .jp nnn => decode_fmtNNN_jp nnn
  | .call nnn => decode_fmtNNN_call nnn
  | .seImm x nn => decode_fmtXNN_seImm x nn
  | .sneImm x nn => decode_fmtXNN_sneImm x nn
  | .seReg x y n => decode_fmtXYN_seReg x y n
  | .ldImm x nn => decode_fmtXNN_ldImm x nn
  | .addImm x nn => decode_fmtXNN_addImm x nn
  | .ldReg x y => decode_fmtXYN_ldReg x y
  | .orReg x y => decode_fmtXYN_orReg x y
  | .andReg x y => decode_fmtXYN_andReg x y
  | .xorReg x y => decode_fmtXYN_xorReg x y
  | .addReg x y => decode_fmtXYN_addReg x y
  | .subReg x y => decode_fmtXYN_subReg x y
  | .shr x y => decode_fmtXYN_shr x y
  | .subn x y => decode_fmtXYN_subn x y
  | .shl x y => decode_fmtXYN_shl x y
  | .sneReg x y n => decode_fmtXYN_sneReg x y n
  | .ldI nnn => decode_fmtNNN_ldI nnn
  | .jpV0 nnn => decode_fmtNNN_jpV0 nnn
  | .rnd x nn => decode_fmtXNN_rnd x nn
  | .drw x y n => decode_fmtXYN_drw x y n
  | .skp x => decode_fmtXNN_skp x
  | .sknp x => decode_fmtXNN_sknp x
  | .ldVxDt x => decode_fmtXNN_ldVxDt x
  | .ldVxK x => decode_fmtXNN_ldVxK x
  | .ldDtVx x => decode_fmtXNN_ldDtVx x
  | .ldStVx x => decode_fmtXNN_ldStVx x
  | .addI x => decode_fmtXNN_addI x
  | .ldF x => decode_fmtXNN_ldF x
  | .ldB x => decode_fmtXNN_ldB x
  | .dump x => decode_fmtXNN_dump x
  | .load x => decode_fmtXNN_load x

/-! ### From a decoded instruction back to the word -/

section
variable {w : Word} {op n : Nibble} {kk : Byte}

/-- A word is a format's word once the fields the format fixes, as numbers, are known. -/
theorem fmtNNN_of_fOp (hop : (fOp w).toNat = op.toNat) : fmtNNN op (fNNN w) = w := by
  rw [← BitVec.eq_of_toNat_eq hop, fmtNNN_fields]

theorem fmtXNN_of_fOp (hop : (fOp w).toNat = op.toNat) : fmtXNN op (fX w) (fNN w) = w := by
  rw [← BitVec.eq_of_toNat_eq hop, fmtXNN_fields]

theorem fmtXYN_of_fOp (hop : (fOp w).toNat = op.toNat) : fmtXYN op (fX w) (fY w) (fN w) = w := by
  rw [← BitVec.eq_of_toNat_eq hop, fmtXYN_fields]

theorem fmtXYN_of_fOp_fN (hop : (fOp w).toNat = op.toNat) (hn : (fN w).toNat = n.toNat) :
    fmtXYN op (fX w) (fY w) n = w := by
  rw [← BitVec.eq_of_toNat_eq hn, fmtXYN_of_fOp hop]

theorem fmtXNN_of_fOp_fNN (hop : (fOp w).toNat = op.toNat) (hkk : (fNN w).toNat = kk.toNat) :
    fmtXNN op (fX w) kk = w := by
  rw [← BitVec.eq_of_toNat_eq hkk, fmtXNN_of_fOp hop]

end

/-- A word of family 0 that is not fixed is the word of a well-formed `SYS`. -/
theorem wellFormed_sys_fNNN {w : Word} (hword : fmtNNN 0x0#4 (fNNN w) = w) (hfixed : w ≠ 0x00E0#16 ∧ w ≠ 0x00EE#16) :
    (Instr.sys (fNNN w)).wellFormed = true := by
  obtain ⟨hcls, hret⟩ := hfixed
  have hcls' : fNNN w ≠ 0x0E0#12 := fun e => hcls (by rw [← hword, e]; rfl)
  have hret' : fNNN w ≠ 0x0EE#12 := fun e => hret (by rw [← hword, e]; rfl)
  simp [Instr.wellFormed, hcls', hret']

/-- The round trip from a word, for one instruction. -/
def EncodesTo (w : Word) (i : Instr) : Prop := i.wellFormed = true ∧ encode i = w

section
variable {w : Word} {i : Instr}

theorem encodesTo_of_decode0 (hop : (fOp w).toNat = 0x0) (h : decode0 w = .ok i) : EncodesTo w i := by
  unfold decode0 at h
  split at h
  next hw => cases h; exact ⟨rfl, hw.symm⟩
  split at h
  next hw => cases h; exact ⟨rfl, hw.symm⟩
  next hcls hret =>
    cases h
    have word_eq : fmtNNN 0x0#4 (fNNN w) = w := fmtNNN_of_fOp hop
    exact ⟨wellFormed_sys_fNNN word_eq ⟨hcls, hret⟩, word_eq⟩

theorem encodesTo_of_decode8 (hop : (fOp w).toNat = 0x8) (h : decode8 w = .ok i) : EncodesTo w i := by
  unfold decode8 at h
  split at h
  case h_10 => cases h
  all_goals
    rename_i hn
    cases h
    exact ⟨rfl, fmtXYN_of_fOp_fN hop hn⟩

theorem encodesTo_of_decodeE (hop : (fOp w).toNat = 0xE) (h : decodeE w = .ok i) : EncodesTo w i := by
  unfold decodeE at h
  split at h
  case h_3 => cases h
  all_goals
    rename_i hkk
    cases h
    exact ⟨rfl, fmtXNN_of_fOp_fNN hop hkk⟩

theorem encodesTo_of_decodeF (hop : (fOp w).toNat = 0xF) (h : decodeF w = .ok i) : EncodesTo w i := by
  unfold decodeF at h
  split at h
  case h_10 => cases h
  all_goals
    rename_i hkk
    cases h
    exact ⟨rfl, fmtXNN_of_fOp_fNN hop hkk⟩

end

/-- Settles O2: the family nibble is read back from the format, the second discriminant too where there is one. -/
theorem encodeOfDecode : Obligations.EncodeOfDecode := fun w i h => by
  unfold decode at h
  split at h <;> rename_i hop
  case h_17 => cases h
  case h_1 => exact encodesTo_of_decode0 hop h
  case h_9 => exact encodesTo_of_decode8 hop h
  case h_15 => exact encodesTo_of_decodeE hop h
  case h_16 => exact encodesTo_of_decodeF hop h
  all_goals cases h
  case h_2 | h_3 | h_11 | h_12 => exact ⟨rfl, fmtNNN_of_fOp hop⟩
  case h_4 | h_5 | h_7 | h_8 | h_13 => exact ⟨rfl, fmtXNN_of_fOp hop⟩
  case h_6 | h_10 | h_14 => exact ⟨rfl, fmtXYN_of_fOp hop⟩

/-! ### The invalid words -/

section
variable (w : Word)

theorem decode0_ne_error (e : DecodeError) : decode0 w ≠ .error e := by
  unfold decode0
  split
  · nofun
  split <;> nofun

/-- The unlisted low nibbles of family 8 (30_encoding.md R96, R101). -/
theorem decode8_error_iff (e : DecodeError) : decode8 w = .error e ↔
    (fN w).toNat ∈ [0x8, 0x9, 0xA, 0xB, 0xC, 0xD, 0xF] ∧ e = .invalidOpcode w := by
  have hlt : (fN w).toNat < 16 := (fN w).isLt
  unfold decode8
  split
  case h_10 =>
    have listed : (fN w).toNat ∈ [0x8, 0x9, 0xA, 0xB, 0xC, 0xD, 0xF] := by
      simp only [List.mem_cons, List.not_mem_nil, imp_false] at *
      omega
    simp [listed, eq_comm]
  all_goals simp_all

/-- The unlisted low bytes of family E (30_encoding.md R97, R101). -/
theorem decodeE_error_iff (e : DecodeError) : decodeE w = .error e ↔
    (fNN w).toNat ∉ [0x9E, 0xA1] ∧ e = .invalidOpcode w := by
  unfold decodeE
  split <;> simp_all [eq_comm]

/-- The unlisted low bytes of family F (30_encoding.md R98, R101). -/
theorem decodeF_error_iff (e : DecodeError) : decodeF w = .error e ↔
    (fNN w).toNat ∉ [0x07, 0x0A, 0x15, 0x18, 0x1E, 0x29, 0x33, 0x55, 0x65] ∧ e = .invalidOpcode w := by
  unfold decodeF
  split <;> simp_all [eq_comm]

/-- The rejected words, by their fields, and the error each is rejected with (30_encoding.md R101). -/
theorem decode_error_iff (e : DecodeError) : decode w = .error e ↔
    (((fOp w).toNat = 0x8 ∧ (fN w).toNat ∈ [0x8, 0x9, 0xA, 0xB, 0xC, 0xD, 0xF]) ∨
      ((fOp w).toNat = 0xE ∧ (fNN w).toNat ∉ [0x9E, 0xA1]) ∨
      ((fOp w).toNat = 0xF ∧ (fNN w).toNat ∉ [0x07, 0x0A, 0x15, 0x18, 0x1E, 0x29, 0x33, 0x55, 0x65])) ∧
    e = .invalidOpcode w := by
  have hlt : (fOp w).toNat < 16 := (fOp w).isLt
  unfold decode
  split <;> rename_i hop
  case h_1 => simp [hop, decode0_ne_error]
  case h_9 => simp [hop, decode8_error_iff]
  case h_15 => simp [hop, decodeE_error_iff]
  case h_16 => simp [hop, decodeF_error_iff]
  case h_17 => simp only [imp_false] at *; omega
  all_goals simp [hop]

end

/-- Settles O3: the fields of a rejected word, read as parts of the word's number. -/
theorem invalidWordsComplete : Obligations.InvalidWordsComplete := fun w => by
  simp only [decode_error_iff, fOp_toNat, fN_toNat, fNN_toNat, exists_and_left, exists_eq, and_true]

/-! ### The opcode map -/

section
variable {w : Word} {op n : Nibble} {kk : Byte}

/-- A word with a row's match bits under its mask is a word of the row's format, with the row's fixed fields
(30_encoding.md R100). -/
theorem fmtNNN_of_mask (h : w &&& 0xF000#16 = fmtNNN op 0#12) : fmtNNN op (fNNN w) = w := by
  rw [← fmtNNN_fields w, mask_fmtNNN] at h
  have hop : fOp w = op := by simpa using congrArg fOp h
  rw [← hop, fmtNNN_fields]

theorem fmtXNN_of_mask (h : w &&& 0xF000#16 = fmtXNN op 0#4 0#8) : fmtXNN op (fX w) (fNN w) = w := by
  rw [← fmtXNN_fields w, mask_fmtXNN] at h
  have hop : fOp w = op := by simpa using congrArg fOp h
  rw [← hop, fmtXNN_fields]

theorem fmtXYN_of_mask (h : w &&& 0xF000#16 = fmtXYN op 0#4 0#4 0#4) : fmtXYN op (fX w) (fY w) (fN w) = w := by
  rw [← fmtXYN_fields w, mask_fmtXYN] at h
  have hop : fOp w = op := by simpa using congrArg fOp h
  rw [← hop, fmtXYN_fields]

theorem fmtXYN_of_mask_low (h : w &&& 0xF00F#16 = fmtXYN op 0#4 0#4 n) : fmtXYN op (fX w) (fY w) n = w := by
  rw [← fmtXYN_fields w, mask_fmtXYN_low] at h
  have hop : fOp w = op := by simpa using congrArg fOp h
  have hn : fN w = n := by simpa using congrArg fN h
  rw [← hop, ← hn, fmtXYN_fields]

theorem fmtXNN_of_mask_low (h : w &&& 0xF0FF#16 = fmtXNN op 0#4 kk) : fmtXNN op (fX w) kk = w := by
  rw [← fmtXNN_fields w, mask_fmtXNN_low] at h
  have hop : fOp w = op := by simpa using congrArg fOp h
  have hkk : fNN w = kk := by simpa using congrArg fNN h
  rw [← hop, ← hkk, fmtXNN_fields]

theorem eq_of_full_mask {m : Word} (h : w &&& 0xFFFF#16 = m) : m = w := by
  rw [← h]
  exact BitVec.and_allOnes

end

/-- `SYS` is the only well-formed instruction of its row, and no `SYS` has one of the two fixed words. -/
theorem encode_ne_fixed_of_row_sys {i : Instr} (hwf : i.wellFormed = true) (hrow : i.row = (0xF000#16, 0x0000#16)) :
    encode i ≠ 0x00E0#16 ∧ encode i ≠ 0x00EE#16 := by
  cases i
  case sys nnn =>
    have round_trip : decode (encode (.sys nnn)) = .ok (.sys nnn) := decodeOfEncode _ hwf
    constructor <;> intro h <;> rw [h] at round_trip
    · cases decode_cls.symm.trans round_trip
    · cases decode_ret.symm.trans round_trip
  all_goals exact absurd hrow (by simp [Instr.row])

/-- A word that matches a row is the word of an instruction of the row, whose operands are the word's fields. -/
theorem exists_encode_eq_of_matches_row {w : Word} {j : Instr} (h : w &&& j.row.1 = j.row.2)
    (hsys : j.row = (0xF000#16, 0x0000#16) → w ≠ 0x00E0#16 ∧ w ≠ 0x00EE#16) :
    ∃ i : Instr, i.wellFormed = true ∧ encode i = w ∧ i.row = j.row :=
  match j with
  | .sys _ => ⟨.sys (fNNN w), wellFormed_sys_fNNN (fmtNNN_of_mask h) (hsys rfl), fmtNNN_of_mask h, rfl⟩
  | .cls => ⟨.cls, rfl, eq_of_full_mask h, rfl⟩
  | .ret => ⟨.ret, rfl, eq_of_full_mask h, rfl⟩
  | .jp _ => ⟨.jp (fNNN w), rfl, fmtNNN_of_mask h, rfl⟩
  | .call _ => ⟨.call (fNNN w), rfl, fmtNNN_of_mask h, rfl⟩
  | .seImm _ _ => ⟨.seImm (fX w) (fNN w), rfl, fmtXNN_of_mask h, rfl⟩
  | .sneImm _ _ => ⟨.sneImm (fX w) (fNN w), rfl, fmtXNN_of_mask h, rfl⟩
  | .seReg _ _ _ => ⟨.seReg (fX w) (fY w) (fN w), rfl, fmtXYN_of_mask h, rfl⟩
  | .ldImm _ _ => ⟨.ldImm (fX w) (fNN w), rfl, fmtXNN_of_mask h, rfl⟩
  | .addImm _ _ => ⟨.addImm (fX w) (fNN w), rfl, fmtXNN_of_mask h, rfl⟩
  | .ldReg _ _ => ⟨.ldReg (fX w) (fY w), rfl, fmtXYN_of_mask_low h, rfl⟩
  | .orReg _ _ => ⟨.orReg (fX w) (fY w), rfl, fmtXYN_of_mask_low h, rfl⟩
  | .andReg _ _ => ⟨.andReg (fX w) (fY w), rfl, fmtXYN_of_mask_low h, rfl⟩
  | .xorReg _ _ => ⟨.xorReg (fX w) (fY w), rfl, fmtXYN_of_mask_low h, rfl⟩
  | .addReg _ _ => ⟨.addReg (fX w) (fY w), rfl, fmtXYN_of_mask_low h, rfl⟩
  | .subReg _ _ => ⟨.subReg (fX w) (fY w), rfl, fmtXYN_of_mask_low h, rfl⟩
  | .shr _ _ => ⟨.shr (fX w) (fY w), rfl, fmtXYN_of_mask_low h, rfl⟩
  | .subn _ _ => ⟨.subn (fX w) (fY w), rfl, fmtXYN_of_mask_low h, rfl⟩
  | .shl _ _ => ⟨.shl (fX w) (fY w), rfl, fmtXYN_of_mask_low h, rfl⟩
  | .sneReg _ _ _ => ⟨.sneReg (fX w) (fY w) (fN w), rfl, fmtXYN_of_mask h, rfl⟩
  | .ldI _ => ⟨.ldI (fNNN w), rfl, fmtNNN_of_mask h, rfl⟩
  | .jpV0 _ => ⟨.jpV0 (fNNN w), rfl, fmtNNN_of_mask h, rfl⟩
  | .rnd _ _ => ⟨.rnd (fX w) (fNN w), rfl, fmtXNN_of_mask h, rfl⟩
  | .drw _ _ _ => ⟨.drw (fX w) (fY w) (fN w), rfl, fmtXYN_of_mask h, rfl⟩
  | .skp _ => ⟨.skp (fX w), rfl, fmtXNN_of_mask_low h, rfl⟩
  | .sknp _ => ⟨.sknp (fX w), rfl, fmtXNN_of_mask_low h, rfl⟩
  | .ldVxDt _ => ⟨.ldVxDt (fX w), rfl, fmtXNN_of_mask_low h, rfl⟩
  | .ldVxK _ => ⟨.ldVxK (fX w), rfl, fmtXNN_of_mask_low h, rfl⟩
  | .ldDtVx _ => ⟨.ldDtVx (fX w), rfl, fmtXNN_of_mask_low h, rfl⟩
  | .ldStVx _ => ⟨.ldStVx (fX w), rfl, fmtXNN_of_mask_low h, rfl⟩
  | .addI _ => ⟨.addI (fX w), rfl, fmtXNN_of_mask_low h, rfl⟩
  | .ldF _ => ⟨.ldF (fX w), rfl, fmtXNN_of_mask_low h, rfl⟩
  | .ldB _ => ⟨.ldB (fX w), rfl, fmtXNN_of_mask_low h, rfl⟩
  | .dump _ => ⟨.dump (fX w), rfl, fmtXNN_of_mask_low h, rfl⟩
  | .load _ => ⟨.load (fX w), rfl, fmtXNN_of_mask_low h, rfl⟩

/-- Every instruction's word matches its row: the family of Laws/PerInstr.lean, as one statement. -/
theorem encode_matches_row (i : Instr) : encode i &&& i.row.1 = i.row.2 :=
  match i with
  | .sys _ => Laws.OpcodeRow.sys _
  | .cls => Laws.OpcodeRow.cls
  | .ret => Laws.OpcodeRow.ret
  | .jp _ => Laws.OpcodeRow.jp _
  | .call _ => Laws.OpcodeRow.call _
  | .seImm _ _ => Laws.OpcodeRow.seImm _ _
  | .sneImm _ _ => Laws.OpcodeRow.sneImm _ _
  | .seReg _ _ _ => Laws.OpcodeRow.seReg _ _ _
  | .ldImm _ _ => Laws.OpcodeRow.ldImm _ _
  | .addImm _ _ => Laws.OpcodeRow.addImm _ _
  | .ldReg _ _ => Laws.OpcodeRow.ldReg _ _
  | .orReg _ _ => Laws.OpcodeRow.orReg _ _
  | .andReg _ _ => Laws.OpcodeRow.andReg _ _
  | .xorReg _ _ => Laws.OpcodeRow.xorReg _ _
  | .addReg _ _ => Laws.OpcodeRow.addReg _ _
  | .subReg _ _ => Laws.OpcodeRow.subReg _ _
  | .shr _ _ => Laws.OpcodeRow.shr _ _
  | .subn _ _ => Laws.OpcodeRow.subn _ _
  | .shl _ _ => Laws.OpcodeRow.shl _ _
  | .sneReg _ _ _ => Laws.OpcodeRow.sneReg _ _ _
  | .ldI _ => Laws.OpcodeRow.ldI _
  | .jpV0 _ => Laws.OpcodeRow.jpV0 _
  | .rnd _ _ => Laws.OpcodeRow.rnd _ _
  | .drw _ _ _ => Laws.OpcodeRow.drw _ _ _
  | .skp _ => Laws.OpcodeRow.skp _
  | .sknp _ => Laws.OpcodeRow.sknp _
  | .ldVxDt _ => Laws.OpcodeRow.ldVxDt _
  | .ldVxK _ => Laws.OpcodeRow.ldVxK _
  | .ldDtVx _ => Laws.OpcodeRow.ldDtVx _
  | .ldStVx _ => Laws.OpcodeRow.ldStVx _
  | .addI _ => Laws.OpcodeRow.addI _
  | .ldF _ => Laws.OpcodeRow.ldF _
  | .ldB _ => Laws.OpcodeRow.ldB _
  | .dump _ => Laws.OpcodeRow.dump _
  | .load _ => Laws.OpcodeRow.load _

/-- Settles O4: a matching word is the word of an instruction of the row and decodes to it by the one round trip; a
decoded word is its instruction's and matches its row by the other. -/
theorem opcodeMapSelects : Obligations.OpcodeMapSelects := fun w j => by
  constructor
  · rintro ⟨hmask, hsys⟩
    obtain ⟨i, hwf, rfl, hrow⟩ := exists_encode_eq_of_matches_row hmask hsys
    exact ⟨i, decodeOfEncode i hwf, hrow⟩
  · rintro ⟨i, hdec, hrow⟩
    obtain ⟨hwf, rfl⟩ := encodeOfDecode w i hdec
    rw [← hrow]
    exact ⟨encode_matches_row i, encode_ne_fixed_of_row_sys hwf⟩

/-- Settles O5: eight closed words. -/
theorem writtenWordsDecode : Obligations.WrittenWordsDecode := by
  unfold Obligations.WrittenWordsDecode
  decide

end Sys2Proof
end

section
/-! Control flow, continued: a fault taken, the stack, and the skips and the jump that read registers
(41_control_flow.md R143, R144, R147 to R149). -/

namespace Sys2Proof.Machine

/-- Taking a fault writes the fault record and nothing else (60_exceptions.md R241). -/
theorem State.faultTaken_raise (s : State) (tr : Trap) (w : Word) :
    FaultTaken tr.cause tr.detail s.pc w s (s.raise tr w) :=
  ⟨rfl, rfl, rfl, rfl, fun _ _ => rfl, rfl, fun _ => rfl, ⟨rfl, fun _ => rfl⟩, ⟨rfl, rfl⟩, fun _ => rfl,
    ⟨fun _ => rfl, rfl⟩, ⟨rfl, rfl⟩, ⟨rfl, rfl⟩, ⟨rfl, rfl, rfl⟩⟩

/-- An instruction has one outcome. -/
theorem next_unique {i : Instr} {s t t' : State} (h : exec i s = .next t) (h' : exec i s = .next t') : t = t' :=
  Host.Outcome.next.inj (h.symm.trans h')

/-! ### The stack -/

section
variable (s : State)

/-- Whatever a cycle writes to the stack and to `pc`, if it writes nothing else every other state element stays. -/
theorem State.frame_advance_with_stack (cells : Vector Word 16) (depth : Fin 17) (target : Word) :
    let t := State.jump { s.advance with stack := cells, sp := depth } target
    EndAt target t ∧ SameRegsExcept [] s t ∧ SameIndex s t ∧ SameMemory s t ∧ SameTimers s t ∧ SameDisplay s t ∧
      SameKeys s t ∧ SameFault s t ∧ SameRandom s t ∧ SameOutside s t :=
  ⟨⟨rfl, rfl, rfl⟩, fun _ _ => rfl, rfl, fun _ => rfl, ⟨rfl, rfl⟩, fun _ => rfl, ⟨fun _ => rfl, rfl⟩,
    ⟨rfl, rfl, rfl, rfl⟩, ⟨rfl, rfl⟩, ⟨rfl, rfl⟩⟩

/-- A call with room on the stack (41_control_flow.md R143). -/
theorem exec_call_of_room (nnn : Addr12) (h : s.sp.val < 16) :
    exec (.call nnn) s = .next (State.jump { s.advance with
      stack := s.stack.set s.sp.val (s.pc + 2#16) h, sp := ⟨s.sp.val + 1, by omega⟩ } (zextAddr nnn)) := by
  obtain ⟨_, e⟩ | ⟨hfull, _⟩ := execCall_cases s nnn
  · exact e
  · omega

/-- A call with the stack full (decision D2). -/
theorem exec_call_of_full (nnn : Addr12) (h : s.sp.val = 16) :
    exec (.call nnn) s = .next (s.raise .stackOverflow (encode (.call nnn))) := by
  obtain ⟨hroom, _⟩ | ⟨_, e⟩ := execCall_cases s nnn
  · omega
  · exact e

/-- A return to the last pushed address (41_control_flow.md R144). -/
theorem exec_ret_of_depth (j : Nibble) (h : s.sp.val = j.toNat + 1) :
    exec .ret s = .next (State.jump { s.advance with sp := ⟨j.toNat, by omega⟩ } (s.stackCell j)) := by
  obtain ⟨_, e⟩ | ⟨hempty, _⟩ := execRet_cases s
  · refine Eq.trans e ?_
    simp only [State.stackCell, h, Nat.add_sub_cancel]
  · omega

/-- A stack that is not empty has a last pushed cell. -/
theorem State.exists_depth (h : s.sp.val ≠ 0) : ∃ j : Nibble, s.sp.val = j.toNat + 1 := by
  have index_toNat : (BitVec.ofNat 4 (s.sp.val - 1)).toNat = s.sp.val - 1 := Nat.mod_eq_of_lt (by omega)
  exact ⟨BitVec.ofNat 4 (s.sp.val - 1), by omega⟩

/-- A return with the stack empty (decision D2). -/
theorem exec_ret_of_empty (h : s.sp.val = 0) : exec .ret s = .next (s.raise .stackUnderflow (encode .ret)) := by
  obtain ⟨hlive, _⟩ | ⟨_, e⟩ := execRet_cases s
  · omega
  · exact e

/-- The stack cells after a push. -/
theorem State.stackCell_with_set (k : Nat) (hk : k < 16) (v : Word) (j : Nibble) :
    State.stackCell { s with stack := s.stack.set k v hk } j = if j.toNat = k then v else s.stackCell j := by
  simp only [State.stackCell, Vector.getElem_set, eq_comm (a := k)]

end

/-- Settles O29: by depth, a push and a jump or the overflow fault. -/
theorem callPushesReturn : Obligations.CallPushesReturn := fun nnn s => by
  refine ⟨fun hroom => ⟨_, exec_call_of_room s nnn hroom, ?_⟩,
    fun hfull => ⟨_, exec_call_of_full s nnn hfull, s.faultTaken_raise _ _⟩⟩
  obtain ⟨hend, hframe⟩ := s.frame_advance_with_stack (s.stack.set s.sp.val (s.pc + 2#16) hroom)
    ⟨s.sp.val + 1, by omega⟩ (zextAddr nnn)
  exact ⟨hend, rfl, s.stackCell_with_set _ hroom _, hframe⟩

/-- Settles O30: by depth, a jump to the last pushed address or the underflow fault. -/
theorem returnPops : Obligations.ReturnPops := fun s => by
  refine ⟨fun j hdepth => ⟨_, exec_ret_of_depth s j hdepth, ?_⟩,
    fun hempty => ⟨_, exec_ret_of_empty s hempty, s.faultTaken_raise _ _⟩⟩
  obtain ⟨hend, hframe⟩ := s.frame_advance_with_stack s.stack ⟨j.toNat, by omega⟩ (s.stackCell j)
  exact ⟨hend, rfl, fun _ => rfl, hframe⟩

/-- Settles O31: the return pops the cell the call pushed. -/
theorem callThenReturn : Obligations.CallThenReturn := fun nnn s t u v hdepth hcall ⟨hsp, hcells⟩ hret => by
  obtain ⟨t', ht', -, hsp', hcells', -⟩ := (callPushesReturn nnn s).1 (by omega)
  obtain rfl := next_unique hcall ht'
  have index_toNat : (BitVec.ofNat 4 s.sp.val).toNat = s.sp.val := Nat.mod_eq_of_lt (by omega)
  obtain ⟨v', hv', ⟨hpc, -⟩, hspv, hcellsv, -⟩ :=
    (returnPops u).1 (BitVec.ofNat 4 s.sp.val) (by rw [hsp, hsp', index_toNat])
  obtain rfl := next_unique hret hv'
  refine ⟨?_, Fin.ext (hspv.trans index_toNat), fun j hj => ?_⟩
  · rw [hpc, hcells, hcells', if_pos index_toNat]
  · rw [hcellsv, hcells, hcells', if_neg hj]

/-! ### The skips on registers and the jump with offset -/

section
variable (s : State) (x y n : Nibble) (nnn : Addr12)

theorem exec_seReg : exec (.seReg x y n) s =
    .next (s.advance.jump (if s.reg x = s.reg y then s.pc + 4#16 else s.pc + 2#16)) := by
  change Host.Outcome.next (s.advance.skipIf (s.reg x == s.reg y)) = _
  simp only [State.advance_skipIf, beq_iff_eq]

theorem exec_sneReg : exec (.sneReg x y n) s =
    .next (s.advance.jump (if s.reg x = s.reg y then s.pc + 2#16 else s.pc + 4#16)) := by
  change Host.Outcome.next (s.advance.skipIf (s.reg x != s.reg y)) = _
  simp only [State.advance_skipIf, bne_iff_ne, ite_not]

theorem exec_jpV0 : exec (.jpV0 nnn) s = .next (s.advance.jump (zextAddr nnn + zextByte (s.reg 0#4))) := rfl

/-- A byte keeps its value when zero extended. -/
@[simp] theorem zextByte_toNat (v : Byte) : (zextByte v).toNat = v.toNat :=
  BitVec.toNat_setWidth_of_le (by decide)

/-- The sum of a 12-bit address and a byte needs no reduction (decision D21). -/
theorem toNat_zextAddr_add_zextByte (v : Byte) : (zextAddr nnn + zextByte v).toNat = nnn.toNat + v.toNat := by
  have hn : nnn.toNat < 4096 := nnn.isLt
  have hv : v.toNat < 256 := v.isLt
  rw [BitVec.toNat_add, zextAddr_toNat, zextByte_toNat]
  omega

end

/-- Settles O33: each skip is a jump to the address its test selects, at every low nibble. -/
theorem skipsOnRegister : Obligations.SkipsOnRegister := fun x y n s =>
  ⟨decode_fmtXYN_seReg x y n, decode_fmtXYN_sneReg x y n, exec_endAt_of_eq_jump (exec_seReg s x y n),
    exec_endAt_of_eq_jump (exec_sneReg s x y n)⟩

/-- Settles O34: the jump to the sum, which 16 bits hold. -/
theorem jumpWithOffset : Obligations.JumpWithOffset := fun nnn s => by
  obtain ⟨t, ht, ⟨hpc, hdrew, hwait⟩, hframe⟩ := exec_endAt_of_eq_jump (exec_jpV0 s nnn)
  exact ⟨decode_fmtNNN_jpV0 nnn, t, ht, by rw [hpc, toNat_zextAddr_add_zextByte], ⟨rfl, hdrew, hwait⟩, hframe⟩

end Sys2Proof.Machine
end

section
/-! Arithmetic and logic, continued: the shifts and the random byte (42_arith_logic.md R170, R172, R173). -/

namespace Sys2Proof.Machine

/-! ### The bit shifted out, as a number -/

theorem flagByte_toNat (b : Bool) : (flagByte b).toNat = b.toNat := by cases b <;> rfl

/-- The shifted-out bits as numbers: the remainder by 2, the quotient by 128. -/
theorem toNat_flagByte_shrOut (v : Byte) : (flagByte (shrOut v)).toNat = v.toNat % 2 := by
  rw [flagByte_toNat, shrOut, BitVec.getLsbD, Nat.toNat_testBit, Nat.pow_zero, Nat.div_one]

theorem toNat_flagByte_shlOut (v : Byte) : (flagByte (shlOut v)).toNat = v.toNat / 128 := by
  have hv : v.toNat < 256 := v.isLt
  rw [flagByte_toNat, shlOut, BitVec.getLsbD, Nat.toNat_testBit]
  omega

theorem toNat_shiftRight_one (v : Byte) : (v >>> 1).toNat = v.toNat / 2 := by
  rw [BitVec.toNat_ushiftRight, Nat.shiftRight_eq_div_pow, Nat.pow_one]

theorem toNat_shiftLeft_one (v : Byte) : (v <<< 1).toNat = v.toNat * 2 % 256 := by
  rw [BitVec.toNat_shiftLeft, Nat.shiftLeft_eq, Nat.pow_one]

/-- The register a shift reads, under the two values of the parameter (decision D9). -/
theorem shiftSource_eq {p : ShiftSrc} {x y src : Nibble} (h : (p = .x ∧ src = x) ∨ (p = .y ∧ src = y)) :
    shiftSource p x y = src := by
  obtain ⟨rfl, rfl⟩ | ⟨rfl, rfl⟩ := h <;> rfl

section
variable (s : State) (x y : Nibble) (nn : Byte)

theorem exec_shr : exec (.shr x y) s = .next (s.advance.setRegFlag x (s.reg (shiftSource s.params.shiftSrc x y) >>> 1)
    (shrOut (s.reg (shiftSource s.params.shiftSrc x y)))) := rfl

theorem exec_shl : exec (.shl x y) s = .next (s.advance.setRegFlag x (s.reg (shiftSource s.params.shiftSrc x y) <<< 1)
    (shlOut (s.reg (shiftSource s.params.shiftSrc x y)))) := rfl

/-- `RND` reads the driver's next byte, which is taken (40_cycle.md R124; log 4). -/
theorem exec_rnd_of_supplied {r : Byte} {rest : List Byte} (h : s.rndIn = r :: rest) :
    exec (.rnd x nn) s = .next { s.advance.setReg x (r &&& nn) with rndIn := rest } := by
  simp only [exec, execRnd, State.nextRandom, State.consumeRandom, State.advance_rndIn, h]
  rfl

/-- With no byte supplied it reads a free one. -/
theorem exec_rnd_of_free (h : s.rndIn = []) : exec (.rnd x nn) s =
    .next { s.advance.setReg x (Config.freeRnd s.draws &&& nn) with rndIn := [], draws := s.draws + 1 } := by
  simp only [exec, execRnd, State.nextRandom, State.consumeRandom, State.advance_rndIn, h]
  rfl

/-- Whatever a cycle writes to one register and to the random input, if it writes nothing else it ends at the next
instruction and every other state element stays. -/
theorem State.frame_advance_with_reg_and_random (v : Byte) (rest : List Byte) (d : Nat) :
    let t := { s.advance.setReg x v with rndIn := rest, draws := d }
    SameRegsExcept [x] s t ∧ OrdinaryEnd s t ∧ SameIndex s t ∧ SameMemory s t ∧ SameStack s t ∧ SameTimers s t ∧
      SameDisplay s t ∧ SameKeys s t ∧ SameFault s t ∧ SameOutside s t :=
  ⟨s.sameRegs_advance_setReg x v, ⟨rfl, rfl, rfl⟩, rfl, fun _ => rfl, ⟨rfl, fun _ => rfl⟩, ⟨rfl, rfl⟩, fun _ => rfl,
    ⟨fun _ => rfl, rfl⟩, ⟨rfl, rfl, rfl, rfl⟩, ⟨rfl, rfl⟩⟩

end

/-- Settles O39: both write the shifted source and the bit shifted out. -/
theorem shiftsByOne : Obligations.ShiftsByOne := fun x y s src hsrc => by
  have source_eq := shiftSource_eq hsrc
  refine ⟨decode_fmtXYN_shr x y, decode_fmtXYN_shl x y, ?right, ?left⟩
  case right =>
    obtain ⟨t, ht, hx, hflag, hframe⟩ := exec_writes_of_eq_setRegFlag (exec_shr s x y)
    rw [source_eq] at hx hflag
    exact ⟨t, ht, fun hne => by rw [hx hne, toNat_shiftRight_one], by rw [hflag, toNat_flagByte_shrOut], hframe⟩
  case left =>
    obtain ⟨t, ht, hx, hflag, hframe⟩ := exec_writes_of_eq_setRegFlag (exec_shl s x y)
    rw [source_eq] at hx hflag
    exact ⟨t, ht, fun hne => by rw [hx hne, toNat_shiftLeft_one], by rw [hflag, toNat_flagByte_shlOut], hframe⟩

/-- Settles O40: the supplied byte or a free one, and a masked byte has only bits of the mask. -/
theorem randomMasked : Obligations.RandomMasked := fun x nn s => by
  refine ⟨decode_fmtXNN_rnd x nn, ?_⟩
  have written : ∀ v, (s.advance.setReg x v).reg x = v := fun v => by rw [State.reg_setReg, if_pos rfl]
  have masked : ∀ (v : Byte) k, (v &&& nn).getLsbD k = true → nn.getLsbD k = true := fun v k hk => by
    rw [BitVec.getLsbD_and, Bool.and_eq_true] at hk
    exact hk.2
  cases hin : s.rndIn with
  | cons r rest =>
    refine ⟨_, exec_rnd_of_supplied s x nn hin, fun r' rest' h => ?_, nofun,
      s.frame_advance_with_reg_and_random x _ rest s.draws⟩
    obtain ⟨rfl, rfl⟩ := List.cons.inj h
    exact ⟨written _, rfl, rfl⟩
  | nil =>
    exact ⟨_, exec_rnd_of_free s x nn hin, nofun, fun _ => ⟨fun k hk => masked _ k ((written _).symm ▸ hk), rfl, rfl⟩,
      s.frame_advance_with_reg_and_random x _ [] (s.draws + 1)⟩

end Sys2Proof.Machine
end

section
/-! Keys: the key wait and the skips on a key (44_timer_key.md R203 to R205). -/

namespace Sys2Proof.Machine

section
variable (s : State) (x : Nibble)

/-! ### The key wait -/

/-- The least pressed key, by its number. -/
theorem State.leastKey_of_pressed {k : Nibble} (hk : s.keyDown k = true)
    (hleast : ∀ j : Nibble, j.toNat < k.toNat → s.keyDown j = false) : s.leastKey = some k.toNat := by
  refine s.leastKey_eq_some.mpr ⟨k.isLt, hk, fun j hj => ?_⟩
  have hj4 : (BitVec.ofNat 4 j).toNat = j := Nat.mod_eq_of_lt (hj.trans k.isLt)
  simpa only [State.keyDown, hj4] using hleast (BitVec.ofNat 4 j) (hj4.symm ▸ hj)

/-- Whatever a cycle writes to one register and to the latch, if it writes nothing else it ends at the next instruction
and every other state element stays. -/
theorem State.frame_advance_with_reg_and_latch (v : Byte) (b : Bool) :
    let t := { s.advance.setReg x v with latch := b }
    SameRegsExcept [x] s t ∧ OrdinaryEnd s t ∧ (∀ j, t.keyDown j = s.keyDown j) ∧ SameIndex s t ∧ SameMemory s t ∧
      SameStack s t ∧ SameTimers s t ∧ SameDisplay s t ∧ SameFault s t ∧ SameRandom s t ∧ SameOutside s t :=
  ⟨s.sameRegs_advance_setReg x v, ⟨rfl, rfl, rfl⟩, fun _ => rfl, rfl, fun _ => rfl, ⟨rfl, fun _ => rfl⟩, ⟨rfl, rfl⟩,
    fun _ => rfl, ⟨rfl, rfl, rfl, rfl⟩, ⟨rfl, rfl⟩, ⟨rfl, rfl⟩⟩

/-- The key wait completes with the least pressed key while the latch is clear. -/
theorem exec_ldVxK_of_qualifying {k : Nat} (hlatch : s.latch = false) (hk : s.leastKey = some k) :
    exec (.ldVxK x) s = .next { s.advance.setReg x (BitVec.ofNat 8 k) with latch := true } := by
  obtain ⟨k', _, hk', e⟩ | ⟨hlatch' | hnone, _⟩ := execLdVxK_cases s x
  · obtain rfl := Option.some.inj (hk'.symm.trans hk)
    exact e
  · cases hlatch.symm.trans hlatch'
  · cases hnone.symm.trans hk

/-- The key wait stalls while the latch is set or no key is pressed. -/
theorem exec_ldVxK_of_stall (h : s.latch = true ∨ ∀ k, s.keyDown k = false) :
    exec (.ldVxK x) s = .next { s with drew := false, wait := true } := by
  obtain ⟨k, hlatch, hk, _⟩ | ⟨_, e⟩ := execLdVxK_cases s x
  · obtain hlatch' | hnone := h
    · cases hlatch.symm.trans hlatch'
    · cases hk.symm.trans (s.leastKey_eq_none.mpr hnone)
  · exact e

/-! ### The skips on a key -/

theorem exec_skp : exec (.skp x) s = .next (s.advance.jump
    (if s.keyDown (lowNibble (s.reg x)) = true then s.pc + 4#16 else s.pc + 2#16)) := by
  change Host.Outcome.next (s.advance.skipIf (s.keyDown (lowNibble (s.reg x)))) = _
  rw [State.advance_skipIf]

theorem exec_sknp : exec (.sknp x) s = .next (s.advance.jump
    (if s.keyDown (lowNibble (s.reg x)) = true then s.pc + 2#16 else s.pc + 4#16)) := by
  change Host.Outcome.next (s.advance.skipIf (!s.keyDown (lowNibble (s.reg x)))) = _
  simp only [State.advance_skipIf, Bool.not_eq_true', ← Bool.not_eq_true, ite_not]

end

theorem lowNibble_toNat (v : Byte) : (lowNibble v).toNat = v.toNat % 16 := by
  rw [lowNibble, BitVec.extractLsb'_toNat, Nat.shiftRight_zero]

/-- Settles O49: the key wait completes with `k`, which is the least pressed key. -/
theorem keyWaitCompletes : Obligations.KeyWaitCompletes := fun x k s hlatch hk hleast => by
  refine ⟨decode_fmtXNN_ldVxK x, _, exec_ldVxK_of_qualifying s x hlatch (s.leastKey_of_pressed hk hleast), ?_, rfl,
    s.frame_advance_with_reg_and_latch x _ true⟩
  have key_fits : k.toNat < 2 ^ 8 := k.isLt.trans (by decide)
  have written : (s.advance.setReg x (BitVec.ofNat 8 k.toNat)).reg x = BitVec.ofNat 8 k.toNat := by
    rw [State.reg_setReg, if_pos rfl]
  exact (congrArg BitVec.toNat written).trans (Nat.mod_eq_of_lt key_fits)

/-- Settles O50: a stall writes `drew` and `wait` only. -/
theorem keyWaitStalls : Obligations.KeyWaitStalls := fun x s hstall =>
  ⟨_, exec_ldVxK_of_stall s x hstall, rfl, rfl, rfl, fun _ _ => rfl, rfl, fun _ => rfl, ⟨rfl, fun _ => rfl⟩, ⟨rfl, rfl⟩,
    fun _ => rfl, ⟨fun _ => rfl, rfl⟩, ⟨rfl, rfl, rfl, rfl⟩, ⟨rfl, rfl⟩, ⟨rfl, rfl⟩⟩

/-- Settles O52: each skip is a jump to the address the key's level selects. -/
theorem skipsOnKey : Obligations.SkipsOnKey := fun x k s hk => by
  have key_eq : lowNibble (s.reg x) = k := BitVec.eq_of_toNat_eq ((lowNibble_toNat _).trans hk)
  have hskp := exec_skp s x
  have hsknp := exec_sknp s x
  rw [key_eq] at hskp hsknp
  exact ⟨decode_fmtXNN_skp x, decode_fmtXNN_sknp x, exec_endAt_of_eq_jump hskp, exec_endAt_of_eq_jump hsknp⟩

end Sys2Proof.Machine
end

section
/-! Index register and memory transfer (45_memory_index.md), and a store seen by the next fetch (20_memory.md R76). -/

namespace Sys2Proof.Machine

section
variable (s : State) (x : Nibble) (nnn : Addr12)

/-! ### The index register -/

/-- Whatever a cycle writes to `I`, if it writes nothing else it ends at the next instruction and every other state
element stays. -/
theorem State.frame_advance_with_index (v : Word) :
    let t := { s.advance with I := v }
    SameRegsExcept [] s t ∧ OrdinaryEnd s t ∧ SameMemory s t ∧ SameStack s t ∧ SameTimers s t ∧ SameDisplay s t ∧
      SameKeys s t ∧ SameFault s t ∧ SameRandom s t ∧ SameOutside s t :=
  ⟨fun _ _ => rfl, ⟨rfl, rfl, rfl⟩, fun _ => rfl, ⟨rfl, fun _ => rfl⟩, ⟨rfl, rfl⟩, fun _ => rfl, ⟨fun _ => rfl, rfl⟩,
    ⟨rfl, rfl, rfl, rfl⟩, ⟨rfl, rfl⟩, ⟨rfl, rfl⟩⟩

theorem exec_ldI : exec (.ldI nnn) s = .next { s.advance with I := zextAddr nnn } := rfl

theorem exec_addI : exec (.addI x) s = .next { s.advance with I := s.I + zextByte (s.reg x) } := rfl

theorem exec_ldF : exec (.ldF x) s = .next { s.advance with I := glyphAddr (lowNibble (s.reg x)) } := rfl

/-- A glyph's address as a number (45_memory_index.md R223). -/
theorem glyphAddr_toNat (d : Nibble) : (glyphAddr d).toNat = 0x050 + 5 * d.toNat := by
  have hd : d.toNat < 16 := d.isLt
  exact Nat.mod_eq_of_lt (show 0x050 + 5 * d.toNat < 65536 by omega)

end

/-- Settles O53: each instruction writes `I` only. -/
theorem indexLoads : Obligations.IndexLoads := fun x nnn s =>
  ⟨decode_fmtNNN_ldI nnn, decode_fmtXNN_addI x, decode_fmtXNN_ldF x,
    ⟨_, exec_ldI s nnn, zextAddr_toNat nnn, s.frame_advance_with_index _⟩,
    ⟨_, exec_addI s x, (BitVec.toNat_add _ _).trans (by rw [zextByte_toNat]), s.frame_advance_with_index _⟩,
    ⟨_, exec_ldF s x, (glyphAddr_toNat _).trans (by rw [lowNibble_toNat]), s.frame_advance_with_index _⟩⟩

/-! ### The stores -/

section
variable (s : State) (x : Nibble)

/-- Whatever a cycle stores, if it does nothing else it ends at the next instruction and every other state element
stays. -/
theorem State.frame_advance_storeBytes (a : Nat) (vs : List Byte) :
    let t := s.advance.storeBytes a vs
    SameRegsExcept [] s t ∧ OrdinaryEnd s t ∧ SameIndex s t ∧ SameStack s t ∧ SameTimers s t ∧ SameDisplay s t ∧
      SameKeys s t ∧ SameFault s t ∧ SameRandom s t ∧ SameOutside s t :=
  ⟨fun _ _ => rfl, ⟨rfl, rfl, rfl⟩, rfl, ⟨rfl, fun _ => rfl⟩, ⟨rfl, rfl⟩, fun _ => rfl, ⟨fun _ => rfl, rfl⟩,
    ⟨rfl, rfl, rfl, rfl⟩, ⟨rfl, rfl⟩, ⟨rfl, rfl⟩⟩

/-- A stored byte is read back (20_memory.md R72). -/
theorem State.readByte_storeBytes_add {vs : List Byte} {a k : Nat} {v : Byte} (hwf : Memory.wf s.params.fontRom s.mem)
    (hfit : a + vs.length ≤ 4096) (hk : vs[k]? = some v) : (s.storeBytes a vs).readByte (a + k) = v := by
  rw [s.readByte_storeBytes hwf.1 a vs hfit, if_pos (Nat.le_add_right a k), Nat.add_sub_cancel_left, hk,
    Option.getD_some]

theorem exec_ldB_of_fits (h : s.I.toNat + 2 ≤ 0xFFF) :
    exec (.ldB x) s = .next (s.advance.storeBytes s.I.toNat (bcdDigits (s.reg x))) := by
  obtain ⟨_, e⟩ | ⟨hpast, _⟩ := execLdB_cases s x
  · exact e
  · omega

theorem exec_ldB_of_past (h : 0xFFF < s.I.toNat + 2) :
    exec (.ldB x) s = .next (s.raise .dataWrite (encode (.ldB x))) := by
  obtain ⟨hfits, _⟩ | ⟨_, e⟩ := execLdB_cases s x
  · omega
  · exact e

theorem exec_dump_of_fits (h : s.I.toNat + x.toNat ≤ 0xFFF) :
    exec (.dump x) s = .next (s.advance.storeBytes s.I.toNat (s.regsUpTo x)) := by
  obtain ⟨_, e⟩ | ⟨hpast, _⟩ := execDump_cases s x
  · exact e
  · omega

theorem exec_dump_of_past (h : 0xFFF < s.I.toNat + x.toNat) :
    exec (.dump x) s = .next (s.raise .dataWrite (encode (.dump x))) := by
  obtain ⟨hfits, _⟩ | ⟨_, e⟩ := execDump_cases s x
  · omega
  · exact e

theorem exec_load_of_fits (h : s.I.toNat + x.toNat ≤ 0xFFF) :
    exec (.load x) s = .next (s.advance.loadRegs s.I.toNat x) := by
  obtain ⟨_, e⟩ | ⟨hpast, _⟩ := execLoad_cases s x
  · exact e
  · omega

theorem exec_load_of_past (h : 0xFFF < s.I.toNat + x.toNat) :
    exec (.load x) s = .next (s.raise .dataRead (encode (.load x))) := by
  obtain ⟨hfits, _⟩ | ⟨_, e⟩ := execLoad_cases s x
  · omega
  · exact e

end

/-- The three digits as numbers: together the value, the last two at most 9 (45_memory_index.md R224). -/
theorem bcdDigits_spec (v : Byte) : ∃ h t o : Byte, bcdDigits v = [h, t, o] ∧
    h.toNat * 100 + t.toNat * 10 + o.toNat = v.toNat ∧ t.toNat ≤ 9 ∧ o.toNat ≤ 9 := by
  have hv : v.toNat < 256 := v.isLt
  refine ⟨_, _, _, rfl, ?_⟩
  simp only [BitVec.toNat_ofNat]
  omega

/-- Settles O54: the three stored bytes are the digits. -/
theorem bcdStores : Obligations.BcdStores := fun x s hwf hfit => by
  obtain ⟨h, t, o, hdigits, hvalue, ht, ho⟩ := bcdDigits_spec (s.reg x)
  have hstored : ∀ {k v}, [h, t, o][k]? = some v →
      (s.advance.storeBytes s.I.toNat [h, t, o]).readByte (s.I.toNat + k) = v := fun hk =>
    s.advance.readByte_storeBytes_add hwf (show s.I.toNat + 3 ≤ 4096 by omega) hk
  have read_h : _ = h := hstored (k := 0) rfl
  have read_t : _ = t := hstored (k := 1) rfl
  have read_o : _ = o := hstored (k := 2) rfl
  refine ⟨decode_fmtXNN_ldB x, _, exec_ldB_of_fits s x hfit, ?_⟩
  rw [hdigits]
  refine ⟨?_, read_t.symm ▸ ht, read_o.symm ▸ ho, fun a ha => ?_, s.frame_advance_storeBytes _ _⟩
  · rw [read_t, read_o]
    exact (congrArg (fun b : Byte => b.toNat * 100 + t.toNat * 10 + o.toNat) read_h).trans hvalue
  · exact s.advance.readByte_storeBytes_other _ _ a ha

/-- Settles O55: the stored bytes are the registers, in order. -/
theorem dumpStores : Obligations.DumpStores := fun x s hwf hfit => by
  have hlen : (s.regsUpTo x).length = x.toNat + 1 := s.regsUpTo_length x
  refine ⟨decode_fmtXNN_dump x, _, exec_dump_of_fits s x hfit, fun r hr => ?_, fun a ha => ?_,
    s.frame_advance_storeBytes _ _⟩
  · exact s.advance.readByte_storeBytes_add hwf (by omega) (s.regsUpTo_getElem? x r hr)
  · exact s.advance.readByte_storeBytes_other _ _ a (by omega)

/-- Settles O56: the registers up to `X` come from memory, those above it stay. -/
theorem loadFills : Obligations.LoadFills := fun x s hfit =>
  ⟨decode_fmtXNN_load x, _, exec_load_of_fits s x hfit, s.advance.reg_loadRegs s.I.toNat x,
    s.ordinaryEnd_advance_with_regs _, s.sameRest_advance_with_regs _⟩

/-- Settles O57: each transfer past the end of memory raises before it writes. -/
theorem transfersPastEndFault : Obligations.TransfersPastEndFault := fun x s =>
  ⟨fun hpast => ⟨_, exec_ldB_of_past s x hpast, s.faultTaken_raise _ _⟩,
    fun hpast => ⟨_, exec_dump_of_past s x hpast, s.faultTaken_raise _ _⟩,
    fun hpast => ⟨_, exec_load_of_past s x hpast, s.faultTaken_raise _ _⟩⟩

/-- Settles O58: the load reads back the bytes the dump stored, which are the registers. -/
theorem dumpThenLoad : Obligations.DumpThenLoad := fun x s t u hwf hfit hdump hload => by
  obtain ⟨-, t', ht', hstored, -, hregs, ⟨hpc, -⟩, hI, -⟩ := dumpStores x s hwf hfit
  obtain rfl := next_unique hdump ht'
  obtain ⟨-, u', hu', hfilled, ⟨hpcu, hdrew, hwait⟩, hrest⟩ := loadFills x t (hI.symm ▸ hfit)
  obtain rfl := next_unique hload hu'
  refine ⟨fun r _ => ?_, hrest, hpc, ?_, hdrew, hwait⟩
  · rw [hfilled]
    split
    next hr => rw [hI, hstored r hr, hregs r List.not_mem_nil]
    next => rfl
  · rw [hpcu, hpc]
    exact BitVec.add_assoc ..

/-- Settles O19: the first two stored bytes are the next instruction's word. -/
theorem storeSeenByNextFetch : Obligations.StoreSeenByNextFetch := fun s x hinv _ hI hx hfit => by
  obtain ⟨-, t, ht, hstored, -, -, ⟨hpc, -⟩, -⟩ := dumpStores x s hinv.memCanonical hfit
  refine ⟨t, ht, ?_⟩
  have first : t.readByte s.I.toNat = s.reg 0#4 := hstored 0#4 (Nat.zero_le _)
  have second : t.readByte (s.I.toNat + 1) = s.reg 1#4 := hstored 1#4 hx
  rw [State.fetchWord, hpc, ← hI, first, second]
  rfl

end Sys2Proof.Machine
end

section
/-! Display, continued: what a sprite does to every pixel and to the collision, the draw, and the redraw
(43_display.md R192). -/

namespace Sys2Proof.Machine

/-! ### Plotting a set of bits -/

/-- From one display and collision to the next by a set of bits, each plotted once: every pixel is inverted exactly where
the bit on it is 1, and a collision is added exactly where such a pixel was set. -/
def Plots (bit : Nat → Nat → Bool) (acc acc' : Display × Bool) : Prop :=
  (∀ qx qy, qx < 64 → qy < 32 → acc'.1.pixel qx qy = (acc.1.pixel qx qy ^^ bit qx qy)) ∧
  (acc'.2 = true ↔ acc.2 = true ∨ ∃ qx qy, qx < 64 ∧ qy < 32 ∧ bit qx qy = true ∧ acc.1.pixel qx qy = true)

section
variable {b b' u : Nat → Nat → Bool} {acc acc' acc'' : Display × Bool}

/-- No bit plots nothing. -/
theorem Plots.refl (hb : ∀ qx qy, b qx qy = false) (acc : Display × Bool) : Plots b acc acc :=
  ⟨fun qx qy _ _ => by rw [hb, Bool.xor_false], by simp [hb]⟩

/-- Two sets of bits on different pixels of the display, one after the other, are plotted like their union `u`. -/
theorem Plots.trans (h : Plots b acc acc') (h' : Plots b' acc' acc'')
    (hdisjoint : ∀ qx qy, qx < 64 → qy < 32 → b qx qy = true → b' qx qy = false)
    (hunion : ∀ qx qy, qx < 64 → qy < 32 → u qx qy = (b qx qy || b' qx qy)) : Plots u acc acc'' := by
  obtain ⟨hpixel, hcoll⟩ := h
  obtain ⟨hpixel', hcoll'⟩ := h'
  refine ⟨fun qx qy hx hy => ?_, ?_⟩
  · rw [hpixel' qx qy hx hy, hpixel qx qy hx hy, hunion qx qy hx hy]
    cases hb : b qx qy with
    | false => rw [Bool.xor_false, Bool.false_or]
    | true => rw [hdisjoint qx qy hx hy hb, Bool.xor_false, Bool.or_false]
  · have unhit : ∀ qx qy, qx < 64 → qy < 32 → b' qx qy = true → acc'.1.pixel qx qy = acc.1.pixel qx qy :=
      fun qx qy hx hy hb' => by
        have hb : b qx qy = false := Bool.eq_false_iff.mpr fun hb =>
          Bool.false_ne_true ((hdisjoint qx qy hx hy hb).symm.trans hb')
        rw [hpixel qx qy hx hy, hb, Bool.xor_false]
    rw [hcoll', hcoll, or_assoc]
    refine or_congr_right ⟨?_, ?_⟩
    · rintro (⟨qx, qy, hx, hy, hb, hp⟩ | ⟨qx, qy, hx, hy, hb', hp⟩)
      · exact ⟨qx, qy, hx, hy, by rw [hunion qx qy hx hy, hb, Bool.true_or], hp⟩
      · exact ⟨qx, qy, hx, hy, by rw [hunion qx qy hx hy, hb', Bool.or_true], unhit qx qy hx hy hb' ▸ hp⟩
    · rintro ⟨qx, qy, hx, hy, hu, hp⟩
      obtain hb | hb' := Bool.or_eq_true_iff.mp ((hunion qx qy hx hy).symm.trans hu)
      · exact .inl ⟨qx, qy, hx, hy, hb, hp⟩
      · exact .inr ⟨qx, qy, hx, hy, hb', (unhit qx qy hx hy hb').symm ▸ hp⟩

end

/-- One sprite bit. -/
theorem plots_plot {px py : Nat} (hx : px < 64) (hy : py < 32) (bit : Bool) (acc : Display × Bool) :
    Plots (fun qx qy => bit && decide (qx = px ∧ qy = py)) acc (plot px py bit acc) := by
  refine ⟨fun qx qy _ _ => plot_pixel px py bit acc qx qy hx hy, ?_⟩
  have hit : (∃ qx qy, qx < 64 ∧ qy < 32 ∧ (bit && decide (qx = px ∧ qy = py)) = true ∧ acc.1.pixel qx qy = true) ↔
      bit = true ∧ acc.1.pixel px py = true := by
    constructor
    · rintro ⟨qx, qy, -, -, hb, hp⟩
      obtain ⟨hbit, hq⟩ := Bool.and_eq_true_iff.mp hb
      obtain ⟨rfl, rfl⟩ := of_decide_eq_true hq
      exact ⟨hbit, hp⟩
    · rintro ⟨hbit, hp⟩
      exact ⟨px, py, hx, hy, by simp [hbit], hp⟩
  rw [hit]
  simp [plot]

/-! ### The sprite's bits -/

/-- The column or row of a sprite that falls on position `q` of a ring of `m`, from origin `o`. -/
def ringOffset (m o q : Nat) : Nat := (q + m - o) % m

/-- The position at an offset is the one that has this offset. -/
theorem eq_add_mod_iff {m o q k : Nat} (ho : o < m) (hq : q < m) (hk : k < m) :
    q = (o + k) % m ↔ ringOffset m o q = k := by
  have hpos : (o + k) % m = if o + k < m then o + k else o + k - m := by
    split
    next h => exact Nat.mod_eq_of_lt h
    next h => rw [Nat.mod_eq_sub_mod (by omega), Nat.mod_eq_of_lt (by omega)]
  have hoff : ringOffset m o q = if q < o then q + m - o else q - o := by
    unfold ringOffset
    split
    next h => exact Nat.mod_eq_of_lt (by omega)
    next h => rw [Nat.mod_eq_sub_mod (by omega), Nat.mod_eq_of_lt (by omega)]; omega
  rw [hpos, hoff]
  split <;> split <;> omega

/-- The bit of one row's first `k` columns on a pixel. -/
def rowBit (b : Byte) (ox py k qx qy : Nat) : Bool :=
  decide (qy = py) && decide (ringOffset 64 ox qx < k) && b.getLsbD (7 - ringOffset 64 ox qx)

/-- The bit of the sprite's first `n` rows on a pixel, columns and rows wrapping each by itself. -/
def spriteBit (row : Nat → Byte) (n ox oy qx qy : Nat) : Bool :=
  decide (ringOffset 32 oy qy < n) && decide (ringOffset 64 ox qx < 8) &&
    (row (ringOffset 32 oy qy)).getLsbD (7 - ringOffset 64 ox qx)

/-- One row, column by column. -/
theorem plots_spriteRow (b : Byte) {ox py : Nat} (hox : ox < 64) (hpy : py < 32) (acc : Display × Bool) :
    Plots (rowBit b ox py 8) acc (spriteRow b ox py acc) := by
  suffices columns : ∀ k, k ≤ 8 → Plots (rowBit b ox py k) acc
      ((List.range k).foldl (fun acc c => plot ((ox + c) % 64) py (b.getLsbD (7 - c)) acc) acc)
    from columns 8 (Nat.le_refl _)
  intro k
  induction k with
  | zero => exact fun _ => Plots.refl (fun qx qy => by simp [rowBit]) acc
  | succ k ih =>
    intro hk
    rw [List.range_succ, List.foldl_append]
    have here : ∀ qx, qx < 64 → (qx = (ox + k) % 64 ↔ ringOffset 64 ox qx = k) := fun qx hx =>
      eq_add_mod_iff hox hx (by omega)
    refine (ih (by omega)).trans (plots_plot (Nat.mod_lt _ (by decide)) hpy (b.getLsbD (7 - k)) _) ?_ ?_
    · intro qx qy hx _
      simp only [rowBit, here qx hx]
      grind
    · intro qx qy hx _
      simp only [rowBit, here qx hx]
      grind

/-- The whole sprite, row by row. -/
theorem plots_drawSprite (row : Nat → Byte) {n ox oy : Nat} (hn : n ≤ 32) (hox : ox < 64) (hoy : oy < 32) (fb : Display) :
    Plots (spriteBit row n ox oy) (fb, false) (drawSprite row n ox oy fb) := by
  unfold drawSprite
  induction n with
  | zero => exact Plots.refl (fun qx qy => by simp [spriteBit]) _
  | succ n ih =>
    rw [List.range_succ, List.foldl_append]
    have here : ∀ qy, qy < 32 → (qy = (oy + n) % 32 ↔ ringOffset 32 oy qy = n) := fun qy hy =>
      eq_add_mod_iff hoy hy (by omega)
    refine (ih (by omega)).trans (plots_spriteRow (row n) hox (Nat.mod_lt _ (by decide)) _) ?_ ?_
    · intro qx qy _ hy
      simp only [rowBit, spriteBit, here qy hy]
      grind
    · intro qx qy _ hy
      simp only [rowBit, spriteBit, here qy hy]
      grind

/-! ### Pixels by the display's index -/

section
variable (s t : State)

theorem State.fbBit_eq_pixel {px : Nat} (hx : px < 64) (py : Nat) : s.fbBit (py * 64 + px) = s.fb.pixel px py := by
  have hcol : (py * 64 + px) % 64 = px := by omega
  have hrow : (py * 64 + px) / 64 = py := by omega
  exact congrArg₂ s.fb.pixel hcol hrow

/-- Below the last row nothing is set. -/
theorem Display.pixel_of_row_ge (fb : Display) (px : Nat) {py : Nat} (hy : 32 ≤ py) : fb.pixel px py = false := by
  rw [Display.pixel, Vector.getElem?_eq_none hy, Option.getD_none, BitVec.getLsbD_zero]

/-- Two states show the same when they agree on the 64 columns and 32 rows. -/
theorem sameDisplay_iff : SameDisplay s t ↔ ∀ px py, px < 64 → py < 32 → t.fb.pixel px py = s.fb.pixel px py := by
  constructor
  · intro h px py hx _
    simpa only [State.fbBit_eq_pixel _ hx] using h (py * 64 + px)
  · intro h j
    by_cases hy : j / 64 < 32
    · exact h (j % 64) (j / 64) (Nat.mod_lt _ (by decide)) hy
    · have unset : ∀ fb : Display, fb.pixel (j % 64) (j / 64) = false := fun fb =>
        fb.pixel_of_row_ge _ (Nat.le_of_not_lt hy)
      exact (unset t.fb).trans (unset s.fb).symm

/-- Some pixel changed from `p` to `q`, by index or by column and row. -/
theorem exists_fbBit_iff (p q : Bool) : (∃ j, j < 2048 ∧ s.fbBit j = p ∧ t.fbBit j = q) ↔
    ∃ px py, px < 64 ∧ py < 32 ∧ s.fb.pixel px py = p ∧ t.fb.pixel px py = q := by
  constructor
  · rintro ⟨j, hj, hs, ht⟩
    exact ⟨j % 64, j / 64, Nat.mod_lt _ (by decide), by omega, hs, ht⟩
  · rintro ⟨px, py, hx, hy, hs, ht⟩
    exact ⟨py * 64 + px, by omega, by rw [State.fbBit_eq_pixel _ hx, hs], by rw [State.fbBit_eq_pixel _ hx, ht]⟩

end

/-! ### The draw -/

section
variable (s : State) (x y n : Nibble)

/-- The bit of the sprite `DRW` draws that falls on a pixel. -/
def State.drawnBit (px py : Nat) : Bool :=
  spriteBit (fun r => s.readByte (s.ea r)) n.toNat ((s.reg x).toNat % 64) ((s.reg y).toNat % 32) px py

theorem State.plots_sprite : Plots (s.drawnBit x y n) (s.fb, false) (s.sprite x y n) :=
  plots_drawSprite _ (n.isLt.le.trans (by decide)) (Nat.mod_lt _ (by decide)) (Nat.mod_lt _ (by decide)) s.fb

theorem toNat_pos_of_ne_zero {n : Nibble} (h : n ≠ 0#4) : 0 < n.toNat :=
  Nat.pos_of_ne_zero fun hz => h (BitVec.eq_of_toNat_eq hz)

theorem exec_drw_of_fits (h : n = 0#4 ∨ s.I.toNat + n.toNat - 1 ≤ 0xFFF) : exec (.drw x y n) s =
    .next ({ s.advance with fb := (s.sprite x y n).1, drew := true }.setReg vf (flagByte (s.sprite x y n).2)) := by
  obtain ⟨_, e⟩ | ⟨hn, hpast, _⟩ := execDrw_cases s x y n
  · exact e
  · have := h.resolve_left hn
    omega

theorem exec_drw_of_past (hn : n ≠ 0#4) (h : 0xFFF < s.I.toNat + n.toNat - 1) :
    exec (.drw x y n) s = .next (s.raise .dataRead (encode (.drw x y n))) := by
  obtain ⟨hn' | hfits, _⟩ | ⟨_, _, e⟩ := execDrw_cases s x y n
  · exact absurd hn' hn
  · have := toNat_pos_of_ne_zero hn
    omega
  · exact e

/-- Whatever a cycle draws and puts in VF, if it does nothing else every other state element stays. -/
theorem State.frame_advance_with_draw (fb : Display) (v : Byte) :
    let t := { s.advance with fb := fb, drew := true }.setReg vf v
    t.pc = s.pc + 2#16 ∧ t.drew = true ∧ t.wait = false ∧ SameRegsExcept [15#4] s t ∧ SameIndex s t ∧ SameMemory s t ∧
      SameStack s t ∧ SameTimers s t ∧ SameKeys s t ∧ SameFault s t ∧ SameRandom s t ∧ SameOutside s t :=
  ⟨rfl, rfl, rfl, s.sameRegs_advance_setReg vf v, rfl, fun _ => rfl, ⟨rfl, fun _ => rfl⟩, ⟨rfl, rfl⟩, ⟨fun _ => rfl, rfl⟩,
    ⟨rfl, rfl, rfl, rfl⟩, ⟨rfl, rfl⟩, ⟨rfl, rfl⟩⟩

theorem flagByte_eq_one_iff (b : Bool) : flagByte b = 1#8 ↔ b = true := by cases b <;> decide

theorem flagByte_zero_or_one (b : Bool) : flagByte b = 0#8 ∨ flagByte b = 1#8 := by cases b <;> decide

end

section
variable {s t : State} {x y n : Nibble} (hfits : n = 0#4 ∨ s.I.toNat + n.toNat - 1 ≤ 0xFFF)
  (ht : exec (.drw x y n) s = .next t)
include hfits ht

/-- A draw that fits inverts the pixels its bits fall on. -/
theorem drw_pixel {px py : Nat} (hx : px < 64) (hy : py < 32) :
    t.fb.pixel px py = (s.fb.pixel px py ^^ s.drawnBit x y n px py) := by
  obtain rfl := next_unique (exec_drw_of_fits s x y n hfits) ht
  exact (s.plots_sprite x y n).1 px py hx hy

/-- Its flag is the flag of its collision. -/
theorem drw_flag : t.reg 15#4 = flagByte (s.sprite x y n).2 := by
  obtain rfl := next_unique (exec_drw_of_fits s x y n hfits) ht
  exact (State.reg_setReg _ _ _ _).trans (if_pos rfl)

theorem drw_flag_eq_one_iff : t.reg 15#4 = 1#8 ↔
    ∃ px py, px < 64 ∧ py < 32 ∧ s.drawnBit x y n px py = true ∧ s.fb.pixel px py = true := by
  rw [drw_flag hfits ht, flagByte_eq_one_iff, (s.plots_sprite x y n).2, or_iff_right Bool.false_ne_true]

end

/-- Settles O42: the sprite is plotted bit by bit, and a pixel falls exactly where a set bit meets a set pixel. -/
theorem drawXorsSprite : Obligations.DrawXorsSprite := fun x y n s hfits => by
  refine ⟨decode_fmtXYN_drw x y n, _, exec_drw_of_fits s x y n hfits, ?pixels, ?flagBit, ?collision,
    s.frame_advance_with_draw _ _⟩
  case pixels =>
    intro px py hx hy
    simp only [State.fbBit_eq_pixel _ hx]
    exact drw_pixel hfits (exec_drw_of_fits s x y n hfits) hx hy
  case flagBit =>
    rw [drw_flag hfits (exec_drw_of_fits s x y n hfits)]
    exact flagByte_zero_or_one _
  case collision =>
    rw [drw_flag_eq_one_iff hfits (exec_drw_of_fits s x y n hfits), exists_fbBit_iff]
    refine exists_congr fun px => exists_congr fun py => and_congr_right fun hx => and_congr_right fun hy => ?_
    rw [drw_pixel hfits (exec_drw_of_fits s x y n hfits) hx hy]
    cases s.drawnBit x y n px py <;> cases s.fb.pixel px py <;> decide

/-- Settles O43: the range test comes before every effect. -/
theorem drawPastEndFaults : Obligations.DrawPastEndFaults := fun x y n s hn hpast =>
  ⟨_, exec_drw_of_past s x y n hn hpast, s.faultTaken_raise _ _⟩

/-! ### The redraw -/

/-- The same sprite at the same place has the same bits. -/
theorem State.drawnBit_congr {s u : State} {x y x' y' n : Nibble} (hI : SameIndex s u)
    (hrows : ∀ r, r < n.toNat → u.readByte (s.I.toNat + r) = s.readByte (s.I.toNat + r))
    (hcol : (u.reg x').toNat % 64 = (s.reg x).toNat % 64) (hrow : (u.reg y').toNat % 32 = (s.reg y).toNat % 32) :
    u.drawnBit x' y' n = s.drawnBit x y n := by
  funext px py
  simp only [State.drawnBit, spriteBit, State.ea, hcol, hrow, show u.I = s.I from hI]
  by_cases hr : ringOffset 32 ((s.reg y).toNat % 32) py < n.toNat
  · rw [hrows _ hr]
  · simp [hr]

/-- Settles O45: inverted twice a pixel is as before, and the second draw's bit meets a set pixel exactly where the first
one set it. -/
theorem redrawRestores : Obligations.RedrawRestores :=
  fun x y n x' y' s t u v hfits ht hshown hI hrows hcol hrow hv => by
    have hfits' : n = 0#4 ∨ u.I.toNat + n.toNat - 1 ≤ 0xFFF := by rwa [show u.I = s.I from hI]
    have same_bits := State.drawnBit_congr hI hrows hcol hrow
    have first : ∀ px py, px < 64 → py < 32 → u.fb.pixel px py = (s.fb.pixel px py ^^ s.drawnBit x y n px py) :=
      fun px py hx hy => ((sameDisplay_iff t u).mp hshown px py hx hy).trans (drw_pixel hfits ht hx hy)
    constructor
    · refine (sameDisplay_iff s v).mpr fun px py hx hy => ?_
      rw [drw_pixel hfits' hv hx hy, same_bits, first px py hx hy, Bool.xor_assoc, Bool.xor_self, Bool.xor_false]
    · rw [drw_flag_eq_one_iff hfits' hv, exists_fbBit_iff, same_bits]
      refine exists_congr fun px => exists_congr fun py => and_congr_right fun hx => and_congr_right fun hy => ?_
      rw [first px py hx hy, drw_pixel hfits ht hx hy]
      cases s.drawnBit x y n px py <;> cases s.fb.pixel px py <;> decide

/-- Settles O44: with `X` and `Y` not 15 the first draw leaves the place as it was. -/
theorem drawTwiceRestores : Obligations.DrawTwiceRestores := fun x y n s t u hx hy hfits ht hu => by
  obtain ⟨-, t', ht', -, -, -, -, -, -, hregs, hI, hmem, -⟩ := drawXorsSprite x y n s hfits
  obtain rfl := next_unique ht ht'
  have same_reg : ∀ r, r ≠ 15#4 → t.reg r = s.reg r := fun r hr => hregs r (mt List.mem_singleton.mp hr)
  exact redrawRestores x y n x y s t t u hfits ht (fun _ => rfl) hI (fun _ _ => hmem _) (by rw [same_reg x hx])
    (by rw [same_reg y hy]) hu

/-- A sprite of one bit on a display where the pixel it falls on is set. -/
def spriteOnSetPixel : State :=
  { State.reset.storeBytes 0x300 [0x80#8] with I := 0x0300, fb := State.reset.fb.set 0 1#64 }

/-- Refutes O46: the first draw unsets the one pixel and the second sets it again, without a collision. -/
theorem not_secondDrawAlwaysCollides : ¬ Obligations.SecondDrawAlwaysCollides := fun h => by
  have collides := h 1#4 2#4 1#4 spriteOnSetPixel _ _ (by decide) (by decide) (by decide) ⟨0, by decide, by decide⟩ rfl rfl
  exact absurd collides (by decide)

end Sys2Proof.Machine
end

section
/-! Reset, continued: every register and byte after a reset, with a program that fits and with one that does not
(10_state.md R39, 70_reset_and_hazards.md R280 to R283). -/

namespace Sys2Proof.Machine

/-! ### The reset content of memory -/

section
variable (rom : FontRom)

theorem Memory.resetByte_font {j : Nat} (hj : j < 80) : Memory.resetByte rom (0x050 + j) = rom[j] := by
  rw [Memory.resetByte, if_pos (Nat.le_add_right _ _), Nat.add_sub_cancel_left, Vector.getElem?_eq_getElem hj,
    Option.getD_some]

/-- Outside the font table the reset content is zero (20_memory.md R62). -/
theorem Memory.resetByte_outside_font {a : Nat} (ha : a < 0x050 ∨ 0x0A0 ≤ a) : Memory.resetByte rom a = 0#8 := by
  obtain hlow | hhigh := ha
  · exact if_neg (Nat.not_le_of_lt hlow)
  · exact Memory.resetByte_of_font_end_le rom hhigh

end

/-! ### The registers -/

/-- The state a reset creates: any memory and fault cause, and what is not the CORE's as it is given. -/
def State.blankWith (p : Params) (m : Memory) (fault : BitVec 2) (detail : BitVec 3) (rnd : List Byte) (draws : Nat)
    (rest : List DriverOp) : State :=
  { State.powerOn p with mem := m, fault := fault, faultDetail := detail, rndIn := rnd, draws := draws, driver := rest }

/-- Every register of the CORE but the fault registers is at its reset value (10_state.md R39; decisions D14, D15). -/
def State.Blank (t : State) : Prop :=
  t.pc = 0x0200#16 ∧ t.I = 0#16 ∧ t.sp.val = 0 ∧ (∀ r, t.reg r = 0#8) ∧ (∀ j, t.stackCell j = 0#16) ∧ t.DT = 0#8 ∧
    t.ST = 0#8 ∧ (∀ j, t.fbBit j = false) ∧ (∀ k, t.keyDown k = false) ∧ t.latch = false ∧ t.wait = false ∧ t.drew = false

section
variable (p : Params) (m : Memory) (fault : BitVec 2) (detail : BitVec 3) (rnd : List Byte) (draws : Nat)
  (rest : List DriverOp)

theorem State.blank_blankWith : (State.blankWith p m fault detail rnd draws rest).Blank :=
  ⟨rfl, rfl, rfl, fun r => Vector.getElem_replicate r.isLt, fun j => Vector.getElem_replicate j.isLt, rfl, rfl,
    fun _ => Display.pixel_blank _ _, fun k => Vector.getElem_replicate k.isLt, rfl, rfl, rfl⟩

end

/-- Settles O24: the reset state is the blank state of the default parameters, with no byte of memory written. -/
theorem resetState : Obligations.ResetState := by
  obtain ⟨hpc, hI, hsp, hreg, hcell, hDT, hST, hfb, hkey, hlatch, hwait, hdrew⟩ :=
    State.blank_blankWith defaultParams [] 0#2 0#3 [] 0 []
  exact ⟨hpc, hI, hsp, hreg, hcell, hDT, hST, rfl, hfb, hkey, hlatch, hwait, hdrew, rfl, rfl, rfl, rfl,
    fun _ => Memory.resetByte_outside_font _, by decide, by decide, by decide, by decide⟩

/-! ### The load -/

section
variable (s : State) {p : List Byte}

theorem State.load_eq_blankWith (hp : p.length ≤ 3584) : s.load p =
    State.blankWith s.params (Memory.writes s.params.fontRom [] 0x200 p) 0#2 0#3 s.rndIn s.draws s.driver :=
  s.load_of_fits hp

/-- A program that is too long is refused, and nothing of it is loaded (70_reset_and_hazards.md R283). -/
theorem State.load_of_too_long (hp : 3584 < p.length) : s.load p =
    State.blankWith s.params [] 3#2 6#3 s.rndIn s.draws s.driver :=
  if_neg (Nat.not_le_of_lt hp)

end

/-- Settles O26: the load is a blank state; its memory is the program, zero after it, and the reset content below. -/
theorem resetCreatesState : Obligations.ResetCreatesState := fun s p rest hpending hp => by
  have memory := State.readByte_load { s with driver := rest } hp
  have step_eq := step_of_pending_reset hpending
  rw [State.load_eq_blankWith _ hp] at memory step_eq
  obtain ⟨hpc, hI, hsp, hreg, hcell, hDT, hST, hfb, hkey, hlatch, hwait, hdrew⟩ := State.blank_blankWith s.params
    (Memory.writes s.params.fontRom [] 0x200 p) 0#2 0#3 s.rndIn s.draws rest
  refine ⟨_, step_eq, hpc, hI, hsp, hreg, hcell, hDT, hST, hfb, hkey, hlatch, hwait, hdrew, rfl, rfl, rfl, rfl,
    fun j hj => ?font, fun a ha => ?zero, ⟨rfl, rfl⟩, rfl, rfl⟩
  case font => rw [memory, if_neg (by omega), Memory.resetByte_font _ hj]
  case zero =>
    rw [memory]
    split
    next => rw [List.getElem?_eq_none (by omega), Option.getD_none]
    next => exact Memory.resetByte_outside_font _ (by omega)

/-- Settles O27: the refused load is a blank state with the record of `LoadError`. -/
theorem longProgramRefused : Obligations.LongProgramRefused := fun s p rest hpending hp => by
  have step_eq := step_of_pending_reset hpending
  rw [State.load_of_too_long _ hp] at step_eq
  obtain ⟨hpc, hI, hsp, hreg, hcell, hDT, hST, hfb, hkey, hlatch, hwait, hdrew⟩ :=
    State.blank_blankWith s.params [] 3#2 6#3 s.rndIn s.draws rest
  exact ⟨_, step_eq, rfl, rfl, rfl, rfl, (by decide : (3#2 : BitVec 2) ≠ 0#2), hpc, hI, hsp, hreg, hcell, hDT, hST, hfb,
    hkey, hlatch, hwait, hdrew, fun j hj => Memory.resetByte_font _ hj, fun a ha => Memory.resetByte_outside_font _ ha,
    ⟨rfl, rfl⟩, rfl, rfl⟩

end Sys2Proof.Machine
end

section
/-! The driver's other operations: the timer tick, the key events and the reading of the outputs
(60_exceptions.md R255 to R257, 40_cycle.md R130). -/

namespace Sys2Proof.Machine

section
variable (s : State)

/-- Whatever an operation of the driver writes to the timers, the keys, the latch and the queue, if it writes nothing else
every other state element stays. -/
theorem State.frame_with_inputs (dt st : Byte) (key : Vector Bool 16) (latch : Bool) (rest : List DriverOp) :
    let t := { s with DT := dt, ST := st, key := key, latch := latch, driver := rest }
    SameFault s t ∧ SameFlow s t ∧ SameRegsExcept [] s t ∧ SameIndex s t ∧ SameMemory s t ∧ SameStack s t ∧
      SameDisplay s t ∧ SameRandom s t ∧ t.params = s.params ∧ t.driver = rest :=
  ⟨⟨rfl, rfl, rfl, rfl⟩, ⟨rfl, rfl, rfl⟩, fun _ _ => rfl, rfl, fun _ => rfl, ⟨rfl, fun _ => rfl⟩, fun _ => rfl, ⟨rfl, rfl⟩,
    rfl, rfl⟩

/-- A timer counts down by one and stops at 0 (60_exceptions.md R255). -/
theorem countDown_toNat (v : Byte) : (countDown v).toNat = v.toNat - 1 := by
  unfold countDown
  split
  next h => rw [h]; rfl
  next h => bv_omega

end

/-- Settles O20: the step is the tick, which writes the timers only. -/
theorem timerTickCountsDown : Obligations.TimerTickCountsDown := fun s rest hpending => by
  obtain ⟨hfault, hflow, hregs, hI, hmem, hstack, hfb, hrnd, hparams, hdriver⟩ :=
    s.frame_with_inputs (countDown s.DT) (countDown s.ST) s.key s.latch rest
  exact ⟨_, step_of_pending hpending, hdriver, countDown_toNat s.DT, countDown_toNat s.ST, hregs, hI, hmem, hstack, hfb,
    ⟨fun _ => rfl, rfl⟩, hfault, hrnd, hflow, hparams⟩

section
variable (s : State) (k : Nibble) (b : Bool)

/-- A key after a key event: the one named, and every other. -/
theorem State.keyDown_setKey_self : (s.setKey k b).keyDown k = b := by
  rw [State.keyDown_setKey, if_pos rfl]

theorem State.keyDown_setKey_ne {j : Nibble} (hj : j ≠ k) : (s.setKey k b).keyDown j = s.keyDown j := by
  rw [State.keyDown_setKey, if_neg hj]

end

/-- Settles O21: the step is the press, which writes one key only. -/
theorem keyPressSetsKey : Obligations.KeyPressSetsKey := fun s k rest hpending => by
  obtain ⟨hfault, hflow, hregs, hI, hmem, hstack, hfb, hrnd, hparams, hdriver⟩ :=
    s.frame_with_inputs s.DT s.ST (s.setKey k true).key s.latch rest
  exact ⟨_, step_of_pending hpending, hdriver, s.keyDown_setKey_self k true, fun _ hj => s.keyDown_setKey_ne k true hj, rfl,
    hregs, hI, hmem, hstack, ⟨rfl, rfl⟩, hfb, hfault, hrnd, hflow, hparams⟩

/-- Settles O22: the step is the release, which writes one key and the latch only. -/
theorem keyReleaseClearsLatch : Obligations.KeyReleaseClearsLatch := fun s k rest hpending => by
  obtain ⟨hfault, hflow, hregs, hI, hmem, hstack, hfb, hrnd, hparams, hdriver⟩ :=
    s.frame_with_inputs s.DT s.ST (s.setKey k false).key false rest
  exact ⟨_, step_of_pending hpending, hdriver, s.keyDown_setKey_self k false, fun _ hj => s.keyDown_setKey_ne k false hj,
    rfl, hregs, hI, hmem, hstack, ⟨rfl, rfl⟩, hfb, hfault, hrnd, hflow, hparams⟩

/-- Settles O23: the step takes the operation off the queue, and each output is its field. -/
theorem readingOutputsChangesNothing : Obligations.ReadingOutputsChangesNothing := fun _ _ hpending =>
  ⟨step_of_pending hpending, fun _ => rfl, rfl, rfl, decide_eq_true_iff, rfl, rfl, rfl, rfl⟩

end Sys2Proof.Machine
end

section
/-! Everything an instruction can do: it takes a fault the spec lists, or it completes and each piece of state changes
only if the instruction is one of its writers (40_cycle.md R125). -/

namespace Sys2Proof.Machine

/-! ### What a completing instruction leaves -/

/-- Where a completing instruction can leave `pc`. -/
inductive PcAfter (i : Instr) (s : State) : Word → Prop where
  /-- Past the instruction. -/
  | past : PcAfter i s (s.pc + 2#16)
  /-- A skip. -/
  | skipped : PcAfter i s (s.pc + 4#16)
  /-- A stalled key wait. -/
  | stalled : PcAfter i s s.pc
  /-- A jump to the instruction's address. -/
  | target (nnn : Addr12) (h : i = .sys nnn ∨ i = .jp nnn ∨ i = .call nnn) : PcAfter i s (zextAddr nnn)
  /-- A jump with offset. -/
  | offset (nnn : Addr12) (h : i = .jpV0 nnn) : PcAfter i s (zextAddr nnn + zextByte (s.reg 0#4))
  /-- A return to a live cell. -/
  | returned (j : Nibble) (h : j.toNat < s.sp.val) : PcAfter i s (s.stackCell j)

/-- How a completing instruction can leave the stack. -/
inductive StackAfter (i : Instr) (s t : State) : Prop where
  | same (h : SameStack s t)
  | pushed (nnn : Addr12) (hi : i = .call nnn) (hsp : t.sp.val = s.sp.val + 1)
      (hcells : ∀ j : Nibble, t.stackCell j = if j.toNat = s.sp.val then s.pc + 2#16 else s.stackCell j)
  | popped (hi : i = .ret) (hsp : t.sp.val < s.sp.val) (hcells : ∀ j, t.stackCell j = s.stackCell j)

/-- Neither a draw nor a key wait: the instructions that leave `drew` and `wait` cleared. -/
def Plain (i : Instr) : Prop := (∀ x y n, i ≠ .drw x y n) ∧ ∀ x, i ≠ .ldVxK x

/-- What a completing instruction may change, and what `drew` and `wait` say of it. The default of a field is its proof
where the piece of state is not written at all. -/
structure Completes (i : Instr) (s t : State) : Prop where
  pc : PcAfter i s t.pc
  drew : t.drew = true ↔ ∃ x y n, i = .drw x y n
  wait : t.wait = true ↔ t.pc = s.pc ∧ ∃ x, i = .ldVxK x
  regs : ∀ r, t.reg r ≠ s.reg r → WritesReg i r := by exact fun _ h => absurd rfl h
  index : t.I ≠ s.I → (∃ nnn, i = .ldI nnn) ∨ ∃ x, i = .addI x ∨ i = .ldF x := by exact fun h => absurd rfl h
  memory : t.mem = s.mem ∨
    (∃ x, i = .ldB x ∨ i = .dump x) ∧ ∃ a vs, t.mem = s.mem.writes s.params.fontRom a vs := by exact .inl rfl
  stack : StackAfter i s t := by exact .same ⟨rfl, fun _ => rfl⟩
  delay : t.DT ≠ s.DT → ∃ x, i = .ldDtVx x := by exact fun h => absurd rfl h
  sound : t.ST ≠ s.ST → ∃ x, i = .ldStVx x := by exact fun h => absurd rfl h
  display : t.fb ≠ s.fb → i = .cls ∨ ∃ x y n, i = .drw x y n := by exact fun h => absurd rfl h
  keys : t.key = s.key := by rfl
  latch : t.latch ≠ s.latch → t.latch = true ∧ ∃ x, i = .ldVxK x := by exact fun h => absurd rfl h
  random : ¬ SameRandom s t → ∃ x nn, i = .rnd x nn := by exact fun h => absurd ⟨rfl, rfl⟩ h
  fault : SameFault s t := by exact ⟨rfl, rfl, rfl, rfl⟩
  outside : SameOutside s t := by exact ⟨rfl, rfl⟩

section
variable {i : Instr} {s t : State}

theorem Plain.drew_iff (hi : Plain i) (hd : t.drew = false) : t.drew = true ↔ ∃ x y n, i = .drw x y n :=
  iff_of_false (by simp [hd]) fun ⟨x, y, n, e⟩ => hi.1 x y n e

theorem Plain.wait_iff (hi : Plain i) (hw : t.wait = false) : t.wait = true ↔ t.pc = s.pc ∧ ∃ x, i = .ldVxK x :=
  iff_of_false (by simp [hw]) fun ⟨_, x, e⟩ => hi.2 x e

theorem PcAfter.of_skip (c : Prop) [Decidable c] : PcAfter i s (if c then s.pc + 4#16 else s.pc + 2#16) := by
  split
  · exact .skipped
  · exact .past

theorem PcAfter.of_skip_not (c : Prop) [Decidable c] : PcAfter i s (if c then s.pc + 2#16 else s.pc + 4#16) := by
  split
  · exact .past
  · exact .skipped

/-! ### The shapes of a completing instruction -/

theorem Completes.of_jump {target : Word} (hpc : PcAfter i s target) (hi : Plain i := by exact ⟨nofun, nofun⟩) :
    Completes i s (s.advance.jump target) where
  pc := hpc
  drew := hi.drew_iff rfl
  wait := hi.wait_iff rfl

theorem Completes.of_setReg {x : Nibble} {v : Byte} (hx : WritesReg i x) (hi : Plain i := by exact ⟨nofun, nofun⟩) :
    Completes i s (s.advance.setReg x v) where
  pc := .past
  drew := hi.drew_iff rfl
  wait := hi.wait_iff rfl
  regs r hr := by
    by_cases h : r ∈ [x]
    · exact List.mem_singleton.mp h ▸ hx
    · exact absurd (s.sameRegs_advance_setReg x v r h) hr

theorem Completes.of_setRegFlag {x : Nibble} {v : Byte} {f : Bool} (hx : ∀ r, r = x ∨ r = 15#4 → WritesReg i r)
    (hi : Plain i := by exact ⟨nofun, nofun⟩) : Completes i s (s.advance.setRegFlag x v f) where
  pc := .past
  drew := hi.drew_iff rfl
  wait := hi.wait_iff rfl
  regs r hr := by
    by_cases h : r ∈ [x, 15#4]
    · exact hx r (by simpa using h)
    · exact absurd (s.sameRegs_advance_setRegFlag x v f r h) hr

theorem Completes.of_index {v : Word} (hI : (∃ nnn, i = .ldI nnn) ∨ ∃ x, i = .addI x ∨ i = .ldF x)
    (hi : Plain i := by exact ⟨nofun, nofun⟩) : Completes i s { s.advance with I := v } where
  pc := .past
  drew := hi.drew_iff rfl
  wait := hi.wait_iff rfl
  index _ := hI

theorem Completes.of_storeBytes {a : Nat} {vs : List Byte} (hmem : ∃ x, i = .ldB x ∨ i = .dump x)
    (hi : Plain i := by exact ⟨nofun, nofun⟩) : Completes i s (s.advance.storeBytes a vs) where
  pc := .past
  drew := hi.drew_iff rfl
  wait := hi.wait_iff rfl
  memory := .inr ⟨hmem, a, vs, rfl⟩

end

section
variable (s : State) (x y n : Nibble) (nn : Byte) (nnn : Addr12)

theorem completes_cls : Completes .cls s { s.advance with fb := Vector.replicate 32 0#64 } where
  pc := .past
  drew := Plain.drew_iff ⟨nofun, nofun⟩ rfl
  wait := Plain.wait_iff ⟨nofun, nofun⟩ rfl
  display _ := .inl rfl

theorem completes_drw (fb : Display) (v : Byte) :
    Completes (.drw x y n) s ({ s.advance with fb := fb, drew := true }.setReg vf v) where
  pc := .past
  drew := iff_of_true rfl ⟨x, y, n, rfl⟩
  wait := iff_of_false Bool.false_ne_true nofun
  regs r hr := by
    by_cases h : r ∈ [vf]
    · exact List.mem_singleton.mp h
    · exact absurd (s.sameRegs_advance_setReg vf v r h) hr
  display _ := .inr ⟨x, y, n, rfl⟩

theorem completes_call (h : s.sp.val < 16) : Completes (.call nnn) s (State.jump { s.advance with
    stack := s.stack.set s.sp.val (s.pc + 2#16) h, sp := ⟨s.sp.val + 1, by omega⟩ } (zextAddr nnn)) where
  pc := .target nnn (.inr (.inr rfl))
  drew := Plain.drew_iff ⟨nofun, nofun⟩ rfl
  wait := Plain.wait_iff ⟨nofun, nofun⟩ rfl
  stack := .pushed nnn rfl rfl (s.stackCell_with_set _ h _)

theorem completes_ret (j : Nibble) (h : s.sp.val = j.toNat + 1) :
    Completes .ret s (State.jump { s.advance with sp := ⟨j.toNat, by omega⟩ } (s.stackCell j)) where
  pc := .returned j (by omega)
  drew := Plain.drew_iff ⟨nofun, nofun⟩ rfl
  wait := Plain.wait_iff ⟨nofun, nofun⟩ rfl
  stack := .popped rfl (show j.toNat < s.sp.val by omega) fun _ => rfl

theorem completes_ldDtVx : Completes (.ldDtVx x) s { s.advance with DT := s.reg x } where
  pc := .past
  drew := Plain.drew_iff ⟨nofun, nofun⟩ rfl
  wait := Plain.wait_iff ⟨nofun, nofun⟩ rfl
  delay _ := ⟨x, rfl⟩

theorem completes_ldStVx : Completes (.ldStVx x) s { s.advance with ST := s.reg x } where
  pc := .past
  drew := Plain.drew_iff ⟨nofun, nofun⟩ rfl
  wait := Plain.wait_iff ⟨nofun, nofun⟩ rfl
  sound _ := ⟨x, rfl⟩

theorem completes_rnd (v : Byte) (rest : List Byte) (d : Nat) :
    Completes (.rnd x nn) s { s.advance.setReg x v with rndIn := rest, draws := d } where
  pc := .past
  drew := Plain.drew_iff ⟨nofun, nofun⟩ rfl
  wait := Plain.wait_iff ⟨nofun, nofun⟩ rfl
  regs := (Completes.of_setReg (i := .rnd x nn) (s := s) (v := v) rfl).regs
  random _ := ⟨x, nn, rfl⟩

theorem completes_load (a : Nat) : Completes (.load x) s (s.advance.loadRegs a x) where
  pc := .past
  drew := Plain.drew_iff ⟨nofun, nofun⟩ rfl
  wait := Plain.wait_iff ⟨nofun, nofun⟩ rfl
  regs r hr := by
    by_cases h : r.toNat ≤ x.toNat
    · exact h
    · exact absurd ((s.advance.reg_loadRegs a x r).trans (if_neg h)) hr

/-- No instruction is where its advance leads. -/
theorem add_two_ne_self (pc : Word) : pc + 2#16 ≠ pc := by bv_omega

theorem completes_ldVxK_key (v : Byte) :
    Completes (.ldVxK x) s { s.advance.setReg x v with latch := true } where
  pc := .past
  drew := iff_of_false Bool.false_ne_true nofun
  wait := iff_of_false Bool.false_ne_true fun ⟨hpc, _⟩ => add_two_ne_self s.pc hpc
  regs := (Completes.of_setReg (i := .ldVxDt x) (s := s) (v := v) rfl).regs
  latch _ := ⟨rfl, x, rfl⟩

theorem completes_ldVxK_stall : Completes (.ldVxK x) s { s with drew := false, wait := true } where
  pc := .stalled
  drew := iff_of_false Bool.false_ne_true nofun
  wait := iff_of_true rfl ⟨rfl, x, rfl⟩

/-! ### The faults an instruction takes -/

/-- The record of a data fault: a sprite or a bulk load that reads, a store that writes, past the end of memory. -/
theorem legal_raise_dataRead {i : Instr} (hi : (∃ x y n, i = .drw x y n) ∨ ∃ x, i = .load x) :
    (s.raise .dataRead (encode i)).FaultRecordLegal := by
  refine .inr (.inr (.inl ⟨rfl, rfl, .inr (.inl ⟨rfl, ?_⟩)⟩))
  obtain ⟨x, y, n, rfl⟩ | ⟨x, rfl⟩ := hi
  · exact .inl ⟨x, y, n, decodeOfEncode _ rfl⟩
  · exact .inr ⟨x, decodeOfEncode _ rfl⟩

theorem legal_raise_dataWrite {i : Instr} (hi : (∃ x, i = .ldB x) ∨ ∃ x, i = .dump x) :
    (s.raise .dataWrite (encode i)).FaultRecordLegal := by
  refine .inr (.inr (.inl ⟨rfl, rfl, .inr (.inr (.inl ⟨rfl, ?_⟩))⟩))
  obtain ⟨x, rfl⟩ | ⟨x, rfl⟩ := hi
  · exact .inl ⟨x, decodeOfEncode _ rfl⟩
  · exact .inr ⟨x, decodeOfEncode _ rfl⟩

theorem legal_raise_stackOverflow (h : s.sp.val = 16) :
    (s.raise .stackOverflow (encode (.call nnn))).FaultRecordLegal :=
  .inr (.inr (.inl ⟨rfl, rfl, .inr (.inr (.inr (.inl ⟨rfl, h, nnn, decodeOfEncode _ rfl⟩)))⟩))

theorem legal_raise_stackUnderflow (h : s.sp.val = 0) :
    (s.raise .stackUnderflow (encode .ret)).FaultRecordLegal :=
  .inr (.inr (.inl ⟨rfl, rfl, .inr (.inr (.inr (.inr ⟨rfl, h, decodeOfEncode _ rfl⟩)))⟩))

end

/-! ### The outcome of an instruction -/

/-- An instruction takes a fault the spec lists, from the state it began in, or completes. -/
def Outcomes (i : Instr) (s : State) : Prop :=
  (∃ tr, exec i s = .next (s.raise tr (encode i)) ∧ (s.raise tr (encode i)).FaultRecordLegal) ∨
  ∃ t, exec i s = .next t ∧ Completes i s t

section
variable (s : State) (x y n : Nibble) (nn : Byte) (nnn : Addr12)

theorem outcomes_call : Outcomes (.call nnn) s := by
  by_cases h : s.sp.val < 16
  · exact .inr ⟨_, exec_call_of_room s nnn h, completes_call s nnn h⟩
  · have hfull : s.sp.val = 16 := by omega
    exact .inl ⟨_, exec_call_of_full s nnn hfull, legal_raise_stackOverflow s nnn hfull⟩

theorem outcomes_ret : Outcomes .ret s := by
  by_cases h : s.sp.val = 0
  · exact .inl ⟨_, exec_ret_of_empty s h, legal_raise_stackUnderflow s h⟩
  · obtain ⟨j, hdepth⟩ := s.exists_depth h
    exact .inr ⟨_, exec_ret_of_depth s _ hdepth, completes_ret s _ hdepth⟩

theorem outcomes_drw : Outcomes (.drw x y n) s := by
  obtain ⟨_, e⟩ | ⟨_, _, e⟩ := execDrw_cases s x y n
  · exact .inr ⟨_, e, completes_drw s x y n _ _⟩
  · exact .inl ⟨_, e, legal_raise_dataRead s (.inl ⟨x, y, n, rfl⟩)⟩

theorem outcomes_ldB : Outcomes (.ldB x) s := by
  obtain ⟨_, e⟩ | ⟨_, e⟩ := execLdB_cases s x
  · exact .inr ⟨_, e, .of_storeBytes ⟨x, .inl rfl⟩⟩
  · exact .inl ⟨_, e, legal_raise_dataWrite s (.inl ⟨x, rfl⟩)⟩

theorem outcomes_dump : Outcomes (.dump x) s := by
  obtain ⟨_, e⟩ | ⟨_, e⟩ := execDump_cases s x
  · exact .inr ⟨_, e, .of_storeBytes ⟨x, .inr rfl⟩⟩
  · exact .inl ⟨_, e, legal_raise_dataWrite s (.inr ⟨x, rfl⟩)⟩

theorem outcomes_load : Outcomes (.load x) s := by
  obtain ⟨_, e⟩ | ⟨_, e⟩ := execLoad_cases s x
  · exact .inr ⟨_, e, completes_load s x _⟩
  · exact .inl ⟨_, e, legal_raise_dataRead s (.inr ⟨x, rfl⟩)⟩

theorem outcomes_rnd : Outcomes (.rnd x nn) s := by
  cases h : s.rndIn with
  | cons r rest => exact .inr ⟨_, exec_rnd_of_supplied s x nn h, completes_rnd s x nn _ rest s.draws⟩
  | nil => exact .inr ⟨_, exec_rnd_of_free s x nn h, completes_rnd s x nn _ [] (s.draws + 1)⟩

theorem outcomes_ldVxK : Outcomes (.ldVxK x) s := by
  obtain ⟨k, _, _, e⟩ | ⟨_, e⟩ := execLdVxK_cases s x
  · exact .inr ⟨_, e, completes_ldVxK_key s x _⟩
  · exact .inr ⟨_, e, completes_ldVxK_stall s x⟩

end

/-- Every instruction, in every state. -/
theorem exec_outcomes (i : Instr) (s : State) : Outcomes i s :=
  match i with
  | .sys nnn => .inr ⟨_, exec_sys s nnn, .of_jump (.target nnn (.inl rfl))⟩
  | .cls => .inr ⟨_, exec_cls s, completes_cls s⟩
  | .ret => outcomes_ret s
  | .jp nnn => .inr ⟨_, exec_jp s nnn, .of_jump (.target nnn (.inr (.inl rfl)))⟩
  | .call nnn => outcomes_call s nnn
  | .seImm x nn => .inr ⟨_, exec_seImm s x nn, .of_jump (.of_skip _)⟩
  | .sneImm x nn => .inr ⟨_, exec_sneImm s x nn, .of_jump (.of_skip_not _)⟩
  | .seReg x y n => .inr ⟨_, exec_seReg s x y n, .of_jump (.of_skip _)⟩
  | .ldImm x nn => .inr ⟨_, exec_ldImm s x nn, .of_setReg rfl⟩
  | .addImm x nn => .inr ⟨_, exec_addImm s x nn, .of_setReg rfl⟩
  | .ldReg x y => .inr ⟨_, exec_ldReg s x y, .of_setReg rfl⟩
  | .orReg x y => .inr ⟨_, exec_orReg s x y, .of_setReg rfl⟩
  | .andReg x y => .inr ⟨_, exec_andReg s x y, .of_setReg rfl⟩
  | .xorReg x y => .inr ⟨_, exec_xorReg s x y, .of_setReg rfl⟩
  | .addReg x y => .inr ⟨_, exec_addReg s x y, .of_setRegFlag fun _ h => h⟩
  | .subReg x y => .inr ⟨_, exec_subReg s x y, .of_setRegFlag fun _ h => h⟩
  | .shr x y => .inr ⟨_, exec_shr s x y, .of_setRegFlag fun _ h => h⟩
  | .subn x y => .inr ⟨_, exec_subn s x y, .of_setRegFlag fun _ h => h⟩
  | .shl x y => .inr ⟨_, exec_shl s x y, .of_setRegFlag fun _ h => h⟩
  | .sneReg x y n => .inr ⟨_, exec_sneReg s x y n, .of_jump (.of_skip_not _)⟩
  | .ldI nnn => .inr ⟨_, exec_ldI s nnn, .of_index (.inl ⟨nnn, rfl⟩)⟩
  | .jpV0 nnn => .inr ⟨_, exec_jpV0 s nnn, .of_jump (.offset nnn rfl)⟩
  | .rnd x nn => outcomes_rnd s x nn
  | .drw x y n => outcomes_drw s x y n
  | .skp x => .inr ⟨_, exec_skp s x, .of_jump (.of_skip _)⟩
  | .sknp x => .inr ⟨_, exec_sknp s x, .of_jump (.of_skip_not _)⟩
  | .ldVxDt x => .inr ⟨_, exec_ldVxDt s x, .of_setReg rfl⟩
  | .ldVxK x => outcomes_ldVxK s x
  | .ldDtVx x => .inr ⟨_, exec_ldDtVx s x, completes_ldDtVx s x⟩
  | .ldStVx x => .inr ⟨_, exec_ldStVx s x, completes_ldStVx s x⟩
  | .addI x => .inr ⟨_, exec_addI s x, .of_index (.inr ⟨x, .inl rfl⟩)⟩
  | .ldF x => .inr ⟨_, exec_ldF s x, .of_index (.inr ⟨x, .inr rfl⟩)⟩
  | .ldB x => outcomes_ldB s x
  | .dump x => outcomes_dump s x
  | .load x => outcomes_load s x

end Sys2Proof.Machine
end

section
/-! Everything a step can do, and what follows of every cycle: the faults, the halted machine, the invariant
(40_cycle.md R123 to R128, 60_exceptions.md R240 to R248). -/

namespace Sys2Proof.Machine

/-! ### The outcome of a cycle -/

theorem Trap.cause_ne_zero (tr : Trap) : tr.cause ≠ 0#2 := by cases tr <;> decide

theorem State.not_running_raise (s : State) (tr : Trap) (w : Word) : ¬ (s.raise tr w).Running := tr.cause_ne_zero

/-- A rejected word is rejected by name. -/
theorem decode_error_invalidOpcode {w : Word} {e : DecodeError} (h : decode w = .error e) :
    decode w = .error (.invalidOpcode w) := by
  obtain ⟨-, rfl⟩ := (decode_error_iff w e).mp h
  exact h

section
variable {s c t : State}

/-- A fetch past the end of memory (60_exceptions.md R240). -/
theorem State.cycle_of_past (hrun : s.Running) (hpc : 0xFFE < s.pc.toNat) :
    s.cycle = .next (s.raise .fetch 0#16) := by
  obtain ⟨h, _⟩ | ⟨_, _, e⟩ | ⟨_, h, _⟩ | ⟨_, h, _⟩ := s.cycle_cases
  · exact absurd hrun h
  · exact e
  · omega
  · omega

/-- A fetched word that is no instruction (60_exceptions.md R243). -/
theorem State.cycle_of_invalid (hrun : s.Running) (hpc : s.pc.toNat ≤ 0xFFE) {e : DecodeError}
    (hdec : decode s.fetchWord = .error e) : s.cycle = .next (s.raise .invalidOpcode s.fetchWord) := by
  obtain ⟨h, _⟩ | ⟨_, h, _⟩ | ⟨_, _, _, he⟩ | ⟨_, _, i, hi, _⟩ := s.cycle_cases
  · exact absurd hrun h
  · omega
  · exact he
  · cases hdec.symm.trans hi

/-- A fetched instruction is executed (40_cycle.md R123). -/
theorem State.cycle_of_decoded (hrun : s.Running) (hpc : s.pc.toNat ≤ 0xFFE) {i : Instr}
    (hdec : decode s.fetchWord = .ok i) : s.cycle = exec i s := by
  obtain ⟨h, _⟩ | ⟨_, h, _⟩ | ⟨_, _, ⟨_, he⟩, _⟩ | ⟨_, _, i', hi, e⟩ := s.cycle_cases
  · exact absurd hrun h
  · omega
  · cases hdec.symm.trans he
  · cases hdec.symm.trans hi
    exact e

/-- A halted machine's cycle (decision D4). -/
theorem State.cycle_of_halted (h : ¬ s.Running) : s.cycle = .next s := by
  obtain ⟨_, e⟩ | ⟨hrun, _⟩ | ⟨hrun, _⟩ | ⟨hrun, _⟩ := s.cycle_cases
  · exact e
  all_goals exact absurd hrun h

/-- The outcome of a cycle: nothing when halted, a legal fault, or the completion of the fetched instruction. -/
inductive CycleOutcome (s : State) : State → Prop where
  | halted (h : ¬ s.Running) : CycleOutcome s s
  | faulted (hrun : s.Running) (tr : Trap) (w : Word) (legal : (s.raise tr w).FaultRecordLegal) :
      CycleOutcome s (s.raise tr w)
  | completed {t : State} (hrun : s.Running) (hpc : s.pc.toNat ≤ 0xFFE) (i : Instr) (hdec : decode s.fetchWord = .ok i)
      (h : Completes i s t) : CycleOutcome s t

theorem State.cycle_outcome (s : State) : ∃ t, s.cycle = .next t ∧ CycleOutcome s t := by
  obtain ⟨hhalted, e⟩ | ⟨hrun, hpc, e⟩ | ⟨hrun, hpc, ⟨_, herr⟩, e⟩ | ⟨hrun, hpc, i, hdec, e⟩ := s.cycle_cases
  · exact ⟨_, e, .halted hhalted⟩
  · exact ⟨_, e, .faulted hrun .fetch 0#16 (.inr (.inr (.inl ⟨rfl, rfl, .inl ⟨rfl, rfl, hpc⟩⟩)))⟩
  · exact ⟨_, e, .faulted hrun .invalidOpcode _ (.inr (.inl ⟨rfl, rfl, rfl, decode_error_invalidOpcode herr⟩))⟩
  · obtain ⟨tr, he, legal⟩ | ⟨t, ht, h⟩ := exec_outcomes i s
    · exact ⟨_, e.trans he, .faulted hrun tr _ legal⟩
    · exact ⟨t, e.trans ht, .completed hrun hpc i hdec h⟩

/-- The same for a step whose next operation is a `Cycle`. -/
theorem State.BeginsCycle.outcome (hc : s.BeginsCycle c) (ht : step s = .next t) : CycleOutcome c t := by
  obtain ⟨t', ht', h⟩ := c.cycle_outcome
  obtain rfl := Host.Outcome.next.inj (ht'.symm.trans (hc.step_eq.symm.trans ht))
  exact h

/-- A completed cycle is not halted. -/
theorem Completes.running {i : Instr} (h : Completes i s t) (hrun : s.Running) : t.Running := h.fault.1.trans hrun

/-- A cycle that ends Running has completed the fetched instruction. -/
theorem CycleOutcome.completes (h : CycleOutcome c t) (hrun : t.Running) :
    ∃ i, decode c.fetchWord = .ok i ∧ Completes i c t := by
  cases h with
  | halted hhalted => exact absurd hrun hhalted
  | faulted _ tr w _ => exact absurd hrun (c.not_running_raise tr w)
  | completed _ _ i hdec h => exact ⟨i, hdec, h⟩

end

/-- Settles O6: the word at `pc` is the two bytes, and a cycle that fetches an instruction is its execution. -/
theorem stepRunsDecodedInstruction : Obligations.StepRunsDecodedInstruction := fun s hi lo i hrun hpc hhi hlo hdec => by
  subst hhi hlo
  exact ⟨fun hidle => (step_of_idle hidle).trans (s.cycle_of_decoded hrun hpc hdec),
    fun rest hpending => (step_of_pending hpending).trans
      (State.cycle_of_decoded (s := { s with driver := rest }) hrun hpc hdec)⟩

/-- Settles O7: the cycle raises the fetch fault. -/
theorem fetchPastEndFaults : Obligations.FetchPastEndFaults := fun _ c hc hrun hpc =>
  ⟨_, hc.step_eq.trans (c.cycle_of_past hrun hpc), c.faultTaken_raise _ _⟩

/-- Settles O8: the cycle raises the fault with the fetched word. -/
theorem invalidOpcodeFaults : Obligations.InvalidOpcodeFaults := fun _ c _ hc hrun hpc hdec =>
  ⟨_, hc.step_eq.trans (c.cycle_of_invalid hrun hpc hdec), c.faultTaken_raise _ _⟩

/-- Settles O10: of the outcomes of a cycle from a Running state only a raise ends halted. -/
theorem faultsArePrecise : Obligations.FaultsArePrecise := fun s c t hc hrun ht hhalted => by
  cases hc.outcome ht with
  | halted h => exact absurd hrun h
  | faulted _ tr w _ => exact c.faultTaken_raise tr w
  | completed _ _ i _ h => exact absurd (h.running hrun) hhalted

/-- Settles O11: a cycle and an instruction have an outcome, and every other operation is a next state. -/
theorem neverStops : Obligations.NeverStops := by
  constructor
  · intro s
    cases hd : s.driver with
    | nil =>
      obtain ⟨t, ht, -⟩ := s.cycle_outcome
      exact ⟨t, (step_of_idle hd).trans ht⟩
    | cons op rest =>
      rw [step_of_pending hd]
      cases op with
      | cycle =>
        obtain ⟨t, ht, -⟩ := State.cycle_outcome { s with driver := rest }
        exact ⟨t, ht⟩
      | reset | timerTick | keyPress | keyRelease | readOutputs => exact ⟨_, rfl⟩
  · intro i s
    obtain ⟨_, e, -⟩ | ⟨_, e, -⟩ := exec_outcomes i s
    · exact ⟨_, e⟩
    · exact ⟨_, e⟩

/-! ### The invariant -/

section
variable {s t : State}

/-- The recorded fault of a Running state with the invariant is none at all. -/
theorem State.FaultRecordLegal.of_running (h : s.FaultRecordLegal) (hrun : s.Running) :
    s.faultDetail = 0#3 ∧ s.faultPc = 0#16 ∧ s.faultWord = 0#16 := by
  obtain ⟨_, hnone⟩ | ⟨hf, _⟩ | ⟨hf, _⟩ | ⟨hf, _⟩ := h
  · exact hnone
  all_goals exact absurd (hf.symm.trans hrun) (by decide)

/-- The bound on `pc` after a completing instruction (10_state.md R28). -/
theorem PcAfter.bound {i : Instr} {p : Word} (h : PcAfter i s p) (hpc : s.pc.toNat ≤ 0xFFE)
    (hstack : ∀ j, (s.stackCell j).toNat ≤ 0x1000) : p.toNat ≤ 0x10FE := by
  cases h with
  | past => bv_omega
  | skipped => bv_omega
  | stalled => omega
  | target nnn _ =>
    have hn : nnn.toNat < 4096 := nnn.isLt
    rw [zextAddr_toNat]
    omega
  | offset nnn _ =>
    have hn : nnn.toNat < 4096 := nnn.isLt
    have hv : (s.reg 0#4).toNat < 256 := (s.reg 0#4).isLt
    rw [toNat_zextAddr_add_zextByte]
    omega
  | returned j _ => exact (hstack j).trans (by decide)

/-- The bound on the pushed addresses. -/
theorem StackAfter.bound {i : Instr} (h : StackAfter i s t) (hpc : s.pc.toNat ≤ 0xFFE)
    (hstack : ∀ j, (s.stackCell j).toNat ≤ 0x1000) (j : Nibble) : (t.stackCell j).toNat ≤ 0x1000 := by
  cases h with
  | same h => exact h.2 j ▸ hstack j
  | pushed _ _ _ hcells =>
    rw [hcells]
    split
    · bv_omega
    · exact hstack j
  | popped _ _ hcells => exact hcells j ▸ hstack j

theorem Completes.mem_wf {i : Instr} (h : Completes i s t) (hwf : Memory.wf s.params.fontRom s.mem) :
    Memory.wf t.params.fontRom t.mem := by
  rw [h.outside.1]
  obtain hm | ⟨_, a, vs, hm⟩ := h.memory
  · exact hm ▸ hwf
  · exact hm ▸ Memory.wf_writes _ hwf a vs

/-- A completing instruction keeps the invariant. -/
theorem Completes.keeps_inv {i : Instr} (h : Completes i s t) (hinv : s.Inv) (hrun : s.Running)
    (hpc : s.pc.toNat ≤ 0xFFE) : t.Inv where
  memCanonical := h.mem_wf hinv.memCanonical
  pcBound := h.pc.bound hpc hinv.stackBound
  stackBound := h.stack.bound hpc hinv.stackBound
  faultRecord := by
    obtain ⟨hdetail, hfpc, hword⟩ := hinv.faultRecord.of_running hrun
    obtain ⟨ef, ed, ep, ew⟩ := h.fault
    exact .inl ⟨ef.trans hrun, ed.trans hdetail, ep.trans hfpc, ew.trans hword⟩
  waitNotDrew := by
    rintro ⟨hwait, hdrew⟩
    obtain ⟨_, _, rfl⟩ := h.wait.mp hwait
    obtain ⟨_, _, _, e⟩ := h.drew.mp hdrew
    cases e

theorem CycleOutcome.keeps_inv (h : CycleOutcome s t) (hinv : s.Inv) : t.Inv := by
  cases h with
  | halted _ => exact hinv
  | faulted _ tr w legal => exact ⟨hinv.memCanonical, hinv.pcBound, hinv.stackBound, legal, hinv.waitNotDrew⟩
  | completed hrun hpc i _ h => exact h.keeps_inv hinv hrun hpc

theorem State.cycle_keeps_inv (hinv : s.Inv) (ht : s.cycle = .next t) : t.Inv := by
  obtain ⟨t', ht', h⟩ := s.cycle_outcome
  obtain rfl := Host.Outcome.next.inj (ht'.symm.trans ht)
  exact h.keeps_inv hinv

/-- The invariant does not speak of the timers, the keys, the latch and the queue. -/
theorem State.Inv.with_inputs (h : s.Inv) (dt st : Byte) (key : Vector Bool 16) (latch : Bool) (rest : List DriverOp) :
    State.Inv { s with DT := dt, ST := st, key := key, latch := latch, driver := rest } :=
  ⟨h.memCanonical, h.pcBound, h.stackBound, h.faultRecord, h.waitNotDrew⟩

/-- A blank state with a canonical memory and the record of no fault or of a refused load meets the invariant. -/
theorem State.inv_blankWith {p : Params} {m : Memory} {fault : BitVec 2} {detail : BitVec 3} {rnd : List Byte}
    {draws : Nat} {rest : List DriverOp} (hwf : Memory.wf p.fontRom m)
    (hrecord : (fault = 0#2 ∧ detail = 0#3) ∨ (fault = 3#2 ∧ detail = 6#3)) :
    (State.blankWith p m fault detail rnd draws rest).Inv := by
  obtain ⟨hpc, -, -, -, hcell, -, -, -, -, -, hwait, -⟩ := State.blank_blankWith p m fault detail rnd draws rest
  refine ⟨hwf, hpc ▸ by decide, fun j => hcell j ▸ by decide, ?_, fun h => Bool.false_ne_true (hwait.symm.trans h.1)⟩
  obtain ⟨rfl, rfl⟩ | ⟨rfl, rfl⟩ := hrecord
  · exact .inl ⟨rfl, rfl, rfl, rfl⟩
  · exact .inr (.inr (.inr ⟨rfl, rfl, rfl, rfl⟩))

theorem State.inv_load (s : State) (p : List Byte) : (s.load p).Inv := by
  by_cases hp : p.length ≤ 3584
  · rw [s.load_eq_blankWith hp]
    exact State.inv_blankWith (Memory.wf_writes _ (Memory.wf_nil _) 0x200 p) (.inl ⟨rfl, rfl⟩)
  · rw [s.load_of_too_long (Nat.lt_of_not_le hp)]
    exact State.inv_blankWith (Memory.wf_nil _) (.inr ⟨rfl, rfl⟩)

/-- Every operation of the driver keeps the invariant. -/
theorem State.perform_keeps_inv (hinv : s.Inv) (op : DriverOp) (ht : s.perform op = .next t) : t.Inv := by
  cases op with
  | cycle => exact s.cycle_keeps_inv hinv ht
  | reset p =>
    cases ht
    exact s.inv_load p
  | timerTick =>
    cases ht
    exact hinv.with_inputs _ _ s.key s.latch s.driver
  | keyPress k =>
    cases ht
    exact hinv.with_inputs s.DT s.ST _ s.latch s.driver
  | keyRelease k =>
    cases ht
    exact hinv.with_inputs s.DT s.ST _ _ s.driver
  | readOutputs =>
    cases ht
    exact hinv

end

/-- Settles O12: a step is a cycle or an operation of the driver, and each keeps the invariant. -/
theorem stepKeepsInv : Obligations.StepKeepsInv := fun s t hinv ht => by
  cases hd : s.driver with
  | nil => exact s.cycle_keeps_inv hinv ((step_of_idle hd).symm.trans ht)
  | cons op rest =>
    exact State.perform_keeps_inv (hinv.with_inputs s.DT s.ST s.key s.latch rest) op ((step_of_pending hd).symm.trans ht)

/-- Settles O13: the reset state is a blank state with an empty memory list. -/
theorem resetHasInv : Obligations.ResetHasInv :=
  State.inv_blankWith (p := defaultParams) (rnd := []) (draws := 0) (rest := []) (Memory.wf_nil _) (.inl ⟨rfl, rfl⟩)

/-! ### The halted machine -/

/-- Settles O9: a halted cycle is no change, and every other operation but a reset writes its inputs only. -/
theorem haltedUntilReset : Obligations.HaltedUntilReset := fun s hhalted => by
  have cycle_still : ∀ c, s.BeginsCycle c → step s = .next c := fun c hc => by
    have hchalted : ¬ c.Running := by
      obtain ⟨_, rfl⟩ | ⟨_, _, rfl⟩ := hc <;> exact hhalted
    exact hc.step_eq.trans (c.cycle_of_halted hchalted)
  refine ⟨cycle_still, fun op rest hpending hop => ?_⟩
  have step_eq := step_of_pending hpending
  cases op with
  | reset p => exact absurd rfl (hop p)
  | cycle =>
    exact ⟨_, cycle_still _ (State.beginsCycle_of_pending hpending), s.frame_with_inputs s.DT s.ST s.key s.latch rest⟩
  | timerTick => exact ⟨_, step_eq, s.frame_with_inputs _ _ s.key s.latch rest⟩
  | keyPress k => exact ⟨_, step_eq, s.frame_with_inputs s.DT s.ST _ s.latch rest⟩
  | keyRelease k => exact ⟨_, step_eq, s.frame_with_inputs s.DT s.ST _ _ rest⟩
  | readOutputs => exact ⟨_, step_eq, s.frame_with_inputs s.DT s.ST s.key s.latch rest⟩

end Sys2Proof.Machine
end

section
/-! What a cycle touches and what it leaves: the writers of each piece of state, the flag, `wait` and `drew`, the parity
of `pc`, the finished program, the stalled key wait, and that no instruction reads `ST` (40_cycle.md R125 to R132). -/

namespace Sys2Proof.Machine

/-! ### The writers of each piece of state -/

/-- Settles O15: a cycle that ends Running completed its instruction, which says what `wait` and `drew` are. -/
theorem waitAndDrewSources : Obligations.WaitAndDrewSources := fun s c t hc _ ht hrun => by
  obtain ⟨i, hdec, h⟩ := (hc.outcome ht).completes hrun
  simp only [hdec, Except.ok.injEq]
  exact ⟨h.wait, h.drew⟩

section
variable {c t : State}

/-- A cycle that completes no instruction writes the fault registers at most, and those only from Running to halted. -/
theorem CycleOutcome.cases_completes (h : CycleOutcome c t) :
    (∃ f d p w, t = { c with fault := f, faultDetail := d, faultPc := p, faultWord := w } ∧
      (¬ SameFault c t → c.Running ∧ ¬ t.Running)) ∨
    (c.Running ∧ ∃ i, decode c.fetchWord = .ok i ∧ Completes i c t) := by
  cases h with
  | halted _ => exact .inl ⟨_, _, _, _, rfl, fun h => absurd ⟨rfl, rfl, rfl, rfl⟩ h⟩
  | faulted hrun tr w _ => exact .inl ⟨_, _, _, _, rfl, fun _ => ⟨hrun, c.not_running_raise tr w⟩⟩
  | completed hrun _ i hdec h => exact .inr ⟨hrun, i, hdec, h⟩

theorem sameMemory_of_mem_eq (hm : t.mem = c.mem) (hp : t.params = c.params) : SameMemory c t :=
  State.readByte_congr hm hp

theorem sameDisplay_of_fb_eq (h : t.fb = c.fb) : SameDisplay c t := fun j => by rw [State.fbBit, State.fbBit, h]

theorem keyDown_of_key_eq (h : t.key = c.key) (k : Nibble) : t.keyDown k = c.keyDown k := by
  simp only [State.keyDown, h]

end

/-- Settles O16: a cycle that completes no instruction leaves every piece of state the clauses speak of, and a completing
one changes what its instruction writes. -/
theorem onlyItsWritersTouch : Obligations.OnlyItsWritersTouch := fun s c t hc ht => by
  obtain ⟨f, d, p, w, rfl, hfault⟩ | ⟨hrun, i, hdec, h⟩ := (hc.outcome ht).cases_completes
  · exact ⟨fun _ hr => absurd rfl hr, fun hflow => absurd ⟨rfl, rfl, rfl⟩ hflow, .inl, .inl, hfault, fun _ => rfl,
      ⟨rfl, rfl⟩, fun hDT => absurd rfl hDT, fun hST => absurd rfl hST, fun hlatch => absurd rfl hlatch,
      fun hfb => absurd (fun _ => rfl) hfb, fun hmem => absurd (fun _ => rfl) hmem, fun ⟨_, hcell⟩ => absurd rfl hcell,
      fun hsp => absurd rfl hsp, fun hI => absurd rfl hI, fun hrnd => absurd ⟨rfl, rfl⟩ hrnd⟩
  · simp only [hdec, Except.ok.injEq]
    refine ⟨fun r hr => ⟨i, rfl, h.regs r hr⟩, fun _ => ⟨hrun, h.running hrun⟩, fun hdrew => .inr (h.drew.mp hdrew),
      fun hwait => .inr (h.wait.mp hwait).2, fun hfault => absurd h.fault hfault, keyDown_of_key_eq h.keys, h.outside,
      h.delay, h.sound, h.latch, fun hfb => h.display (mt sameDisplay_of_fb_eq hfb), fun hmem => ?memory,
      fun ⟨j, hcell⟩ => ?cells, fun hsp => ?depth, h.index, h.random⟩
    case memory =>
      obtain hm | ⟨hwriter, _⟩ := h.memory
      · exact absurd (sameMemory_of_mem_eq hm h.outside.1) hmem
      · exact hwriter
    case cells =>
      cases h.stack with
      | same hsame => exact absurd (hsame.2 j) hcell
      | pushed nnn hi _ _ => exact ⟨nnn, hi⟩
      | popped _ _ hcells => exact absurd (hcells j) hcell
    case depth =>
      cases h.stack with
      | same hsame => exact absurd hsame.1 hsp
      | pushed nnn hi _ _ => exact .inr ⟨nnn, hi⟩
      | popped hi _ _ => exact .inl hi

/-! ### The flag register -/

section
variable {i : Instr} {s t : State}

/-- The instructions that write VF (10_state.md R22). -/
theorem writers_of_vf (h : WritesReg i 15#4) :
    (∃ x y, i = .addReg x y ∨ i = .subReg x y ∨ i = .subn x y ∨ i = .shr x y ∨ i = .shl x y) ∨
    (∃ x y n, i = .drw x y n) ∨
    (∃ nn, i = .ldImm 15#4 nn ∨ i = .addImm 15#4 nn ∨ i = .rnd 15#4 nn) ∨
    (∃ y, i = .ldReg 15#4 y ∨ i = .orReg 15#4 y ∨ i = .andReg 15#4 y ∨ i = .xorReg 15#4 y) ∨
    i = .ldVxDt 15#4 ∨ i = .ldVxK 15#4 ∨ i = .load 15#4 := by
  cases i
  case load x =>
    have hx : x = 15#4 := by
      have hle : 15 ≤ x.toNat := h
      have hlt : x.toNat < 16 := x.isLt
      exact BitVec.eq_of_toNat_eq (show x.toNat = 15 by omega)
    simp [hx]
  all_goals simp_all [WritesReg]

/-- A flag writer of family 8 leaves its flag in VF, whatever its `X`. -/
theorem vf_of_eq_setRegFlag {x : Nibble} {v : Byte} {f : Bool} (h : exec i s = .next (s.advance.setRegFlag x v f))
    (ht : exec i s = .next t) : t.reg 15#4 = 0#8 ∨ t.reg 15#4 = 1#8 := by
  obtain ⟨t', ht', -, hflag, -⟩ := exec_writes_of_eq_setRegFlag h
  obtain rfl := next_unique ht ht'
  exact hflag ▸ flagByte_zero_or_one f

/-- An instruction that changes a register is one of its writers: a fault changes none. -/
theorem writesReg_of_exec (ht : exec i s = .next t) {r : Nibble} (hr : t.reg r ≠ s.reg r) : WritesReg i r := by
  obtain ⟨tr, e, -⟩ | ⟨t', e, h⟩ := exec_outcomes i s
  · obtain rfl := next_unique ht e
    exact absurd rfl hr
  · obtain rfl := next_unique ht e
    exact h.regs r hr

/-- A draw that does not halt the machine fits in memory. -/
theorem drw_fits_of_running {x y n : Nibble} (ht : exec (.drw x y n) s = .next t) (hrun : t.Running) :
    n = 0#4 ∨ s.I.toNat + n.toNat - 1 ≤ 0xFFF := by
  by_cases hn : n = 0#4
  · exact .inl hn
  by_cases hfits : s.I.toNat + n.toNat - 1 ≤ 0xFFF
  · exact .inr hfits
  · obtain rfl := next_unique ht (exec_drw_of_past s x y n hn (Nat.lt_of_not_le hfits))
    exact absurd hrun (s.not_running_raise _ _)

end

/-- Settles O17: who writes VF, the flag of each register flag writer, and the flag of a draw. -/
theorem flagWriters : Obligations.FlagWriters := fun i s t ht => by
  refine ⟨fun hvf => writers_of_vf (writesReg_of_exec ht hvf), ?registers, ?draw⟩
  case registers =>
    rintro ⟨x, y, rfl | rfl | rfl | rfl | rfl⟩
    · exact vf_of_eq_setRegFlag (exec_addReg s x y) ht
    · exact vf_of_eq_setRegFlag (exec_subReg s x y) ht
    · exact vf_of_eq_setRegFlag (exec_subn s x y) ht
    · exact vf_of_eq_setRegFlag (exec_shr s x y) ht
    · exact vf_of_eq_setRegFlag (exec_shl s x y) ht
  case draw =>
    rintro ⟨x, y, n, rfl⟩ - hrun
    rw [drw_flag (drw_fits_of_running ht hrun) ht]
    exact flagByte_zero_or_one _

/-! ### The parity of `pc` -/

section
variable {i : Instr} {s t : State}

/-- `pc` after a completing instruction is even when every address it may come from is. -/
theorem PcAfter.even {p : Word} (h : PcAfter i s p) (hpc : s.pc.toNat % 2 = 0)
    (hcells : ∀ j : Nibble, j.toNat < s.sp.val → (s.stackCell j).toNat % 2 = 0)
    (htarget : ∀ nnn, i = .sys nnn ∨ i = .jp nnn ∨ i = .call nnn → nnn.toNat % 2 = 0)
    (hoffset : ∀ nnn, i = .jpV0 nnn → (nnn.toNat + (s.reg 0#4).toNat) % 2 = 0) : p.toNat % 2 = 0 := by
  cases h with
  | past => bv_omega
  | skipped => bv_omega
  | stalled => exact hpc
  | target nnn hi => exact zextAddr_toNat nnn ▸ htarget nnn hi
  | offset nnn hi => exact toNat_zextAddr_add_zextByte nnn _ ▸ hoffset nnn hi
  | returned j hj => exact hcells j hj

/-- So are the live cells. -/
theorem StackAfter.even (h : StackAfter i s t) (hpc : s.pc.toNat % 2 = 0)
    (hcells : ∀ j : Nibble, j.toNat < s.sp.val → (s.stackCell j).toNat % 2 = 0) (j : Nibble) (hj : j.toNat < t.sp.val) :
    (t.stackCell j).toNat % 2 = 0 := by
  cases h with
  | same h => exact h.2 j ▸ hcells j (h.1 ▸ hj)
  | pushed _ _ hsp hpushed =>
    rw [hpushed]
    split
    next => bv_omega
    next hne => exact hcells j (by omega)
  | popped _ hsp hsame => exact hsame j ▸ hcells j (hj.trans hsp)

end

/-- Settles O14: a cycle that completes no instruction moves nothing, and a completing one takes `pc` and the pushed
address from even ones. -/
theorem evenPcStaysEven : Obligations.EvenPcStaysEven := fun s c t hc ht hpc hcells hsys hjp hcall hjpV0 => by
  obtain ⟨f, d, p, w, rfl, -⟩ | ⟨-, i, hdec, h⟩ := (hc.outcome ht).cases_completes
  · exact ⟨hpc, hcells⟩
  · simp only [hdec, Except.ok.injEq] at hsys hjp hcall hjpV0
    refine ⟨h.pc.even hpc hcells (fun nnn hi => ?_) hjpV0, h.stack.even hpc hcells⟩
    obtain hi | hi | hi := hi
    · exact hsys nnn hi
    · exact hjp nnn hi
    · exact hcall nnn hi

/-! ### Cycles that repeat -/

/-- Settles O18: the cycle is the jump to where `pc` already is. -/
theorem finishedStays : Obligations.FinishedStays := fun s c hc ⟨hrun, hpc, nnn, hdec, hself⟩ => by
  have step_eq : step s = .next (c.advance.jump c.pc) :=
    hc.step_eq.trans ((c.cycle_of_decoded hrun hpc hdec).trans (hself ▸ exec_jp c nnn))
  exact ⟨_, step_eq, c.endAt_advance_jump c.pc, c.sameRegs_advance_jump c.pc, c.sameRest_advance_jump c.pc,
    hrun, hpc, nnn, hdec, hself⟩

/-- A step at a stalling key wait. -/
theorem step_of_stall {s : State} {x : Nibble} (hrun : s.Running) (hidle : s.driver = []) (hpc : s.pc.toNat ≤ 0xFFE)
    (hdec : decode s.fetchWord = .ok (.ldVxK x)) (hstall : s.latch = true ∨ ∀ k, s.keyDown k = false) :
    step s = .next { s with drew := false, wait := true } :=
  (step_of_idle hidle).trans ((s.cycle_of_decoded hrun hpc hdec).trans (exec_ldVxK_of_stall s x hstall))

/-- Settles O51: the stalled state fetches the key wait again, and what it would write is written. -/
theorem stalledWaitIsFixed : Obligations.StalledWaitIsFixed := fun s t x hrun hidle hpc hdec hstall ht => by
  obtain rfl := Host.Outcome.next.inj ((step_of_stall hrun hidle hpc hdec hstall).symm.trans ht)
  exact step_of_stall (s := { s with drew := false, wait := true }) hrun hidle hpc hdec hstall

/-! ### The sound timer -/

/-- The state with another value in `ST`. -/
def State.withST (s : State) (v : Byte) : State := { s with ST := v }

/-- With another value in `ST` the instruction does the same and leaves that value. -/
def IgnoresST (i : Instr) : Prop :=
  ∀ (s t : State) (v : Byte), exec i s = .next t → exec i (s.withST v) = .next (t.withST v)

section
variable {i : Instr} {s t u : State} {v : Byte}

/-- One outcome of an instruction, with the one value of `ST` and with the other. -/
theorem exec_with_ST_of_eq (ht : exec i s = .next t) (e : exec i s = .next u)
    (e' : exec i (s.withST v) = .next (u.withST v)) : exec i (s.withST v) = .next (t.withST v) :=
  next_unique ht e ▸ e'

/-- An instruction whose next state is an expression that neither reads `ST` nor writes it. -/
theorem IgnoresST.of_eq {F : State → State} (h : ∀ s, exec i s = .next (F s))
    (hF : ∀ s v, F (s.withST v) = (F s).withST v := by exact fun _ _ => rfl) : IgnoresST i :=
  fun s _ v ht => exec_with_ST_of_eq ht (h s) ((h _).trans (congrArg _ (hF s v)))

end

section
variable (x y n : Nibble) (nn : Byte) (nnn : Addr12)

theorem ignoresST_call : IgnoresST (.call nnn) := fun s t v ht => by
  by_cases h : s.sp.val < 16
  · exact exec_with_ST_of_eq ht (exec_call_of_room s nnn h) (exec_call_of_room (s.withST v) nnn h)
  · have hfull : s.sp.val = 16 := by omega
    exact exec_with_ST_of_eq ht (exec_call_of_full s nnn hfull) (exec_call_of_full (s.withST v) nnn hfull)

theorem ignoresST_ret : IgnoresST .ret := fun s t v ht => by
  by_cases h : s.sp.val = 0
  · exact exec_with_ST_of_eq ht (exec_ret_of_empty s h) (exec_ret_of_empty (s.withST v) h)
  · obtain ⟨j, hdepth⟩ := s.exists_depth h
    exact exec_with_ST_of_eq ht (exec_ret_of_depth s j hdepth) (exec_ret_of_depth (s.withST v) j hdepth)

theorem ignoresST_rnd : IgnoresST (.rnd x nn) := fun s t v ht => by
  cases h : s.rndIn with
  | cons r rest => exact exec_with_ST_of_eq ht (exec_rnd_of_supplied s x nn h) (exec_rnd_of_supplied (s.withST v) x nn h)
  | nil => exact exec_with_ST_of_eq ht (exec_rnd_of_free s x nn h) (exec_rnd_of_free (s.withST v) x nn h)

theorem ignoresST_drw : IgnoresST (.drw x y n) := fun s t v ht => by
  by_cases h : n = 0#4 ∨ s.I.toNat + n.toNat - 1 ≤ 0xFFF
  · exact exec_with_ST_of_eq ht (exec_drw_of_fits s x y n h) (exec_drw_of_fits (s.withST v) x y n h)
  · obtain ⟨hn, hpast⟩ := not_or.mp h
    exact exec_with_ST_of_eq ht (exec_drw_of_past s x y n hn (Nat.lt_of_not_le hpast))
      (exec_drw_of_past (s.withST v) x y n hn (Nat.lt_of_not_le hpast))

theorem ignoresST_ldVxK : IgnoresST (.ldVxK x) := fun s t v ht => by
  obtain ⟨k, hlatch, hk, e⟩ | ⟨hstall, e⟩ := execLdVxK_cases s x
  · exact exec_with_ST_of_eq ht e (exec_ldVxK_of_qualifying (s.withST v) x hlatch hk)
  · exact exec_with_ST_of_eq ht e (exec_ldVxK_of_stall (s.withST v) x (hstall.imp_right s.leastKey_eq_none.mp))

theorem ignoresST_ldB : IgnoresST (.ldB x) := fun s t v ht => by
  by_cases h : s.I.toNat + 2 ≤ 0xFFF
  · exact exec_with_ST_of_eq ht (exec_ldB_of_fits s x h) (exec_ldB_of_fits (s.withST v) x h)
  · exact exec_with_ST_of_eq ht (exec_ldB_of_past s x (Nat.lt_of_not_le h))
      (exec_ldB_of_past (s.withST v) x (Nat.lt_of_not_le h))

theorem ignoresST_dump : IgnoresST (.dump x) := fun s t v ht => by
  by_cases h : s.I.toNat + x.toNat ≤ 0xFFF
  · exact exec_with_ST_of_eq ht (exec_dump_of_fits s x h) (exec_dump_of_fits (s.withST v) x h)
  · exact exec_with_ST_of_eq ht (exec_dump_of_past s x (Nat.lt_of_not_le h))
      (exec_dump_of_past (s.withST v) x (Nat.lt_of_not_le h))

theorem ignoresST_load : IgnoresST (.load x) := fun s t v ht => by
  by_cases h : s.I.toNat + x.toNat ≤ 0xFFF
  · exact exec_with_ST_of_eq ht (exec_load_of_fits s x h) (exec_load_of_fits (s.withST v) x h)
  · exact exec_with_ST_of_eq ht (exec_load_of_past s x (Nat.lt_of_not_le h))
      (exec_load_of_past (s.withST v) x (Nat.lt_of_not_le h))

end

/-- Every instruction but `LD ST,Vx`. -/
theorem ignoresST {i : Instr} (hi : ∀ x, i ≠ .ldStVx x) : IgnoresST i :=
  match i with
  | .sys nnn => .of_eq fun s => exec_sys s nnn
  | .cls => .of_eq exec_cls
  | .ret => ignoresST_ret
  | .jp nnn => .of_eq fun s => exec_jp s nnn
  | .call nnn => ignoresST_call nnn
  | .seImm x nn => .of_eq fun s => exec_seImm s x nn
  | .sneImm x nn => .of_eq fun s => exec_sneImm s x nn
  | .seReg x y n => .of_eq fun s => exec_seReg s x y n
  | .ldImm x nn => .of_eq fun s => exec_ldImm s x nn
  | .addImm x nn => .of_eq fun s => exec_addImm s x nn
  | .ldReg x y => .of_eq fun s => exec_ldReg s x y
  | .orReg x y => .of_eq fun s => exec_orReg s x y
  | .andReg x y => .of_eq fun s => exec_andReg s x y
  | .xorReg x y => .of_eq fun s => exec_xorReg s x y
  | .addReg x y => .of_eq fun s => exec_addReg s x y
  | .subReg x y => .of_eq fun s => exec_subReg s x y
  | .shr x y => .of_eq fun s => exec_shr s x y
  | .subn x y => .of_eq fun s => exec_subn s x y
  | .shl x y => .of_eq fun s => exec_shl s x y
  | .sneReg x y n => .of_eq fun s => exec_sneReg s x y n
  | .ldI nnn => .of_eq fun s => exec_ldI s nnn
  | .jpV0 nnn => .of_eq fun s => exec_jpV0 s nnn
  | .rnd x nn => ignoresST_rnd x nn
  | .drw x y n => ignoresST_drw x y n
  | .skp x => .of_eq fun s => exec_skp s x
  | .sknp x => .of_eq fun s => exec_sknp s x
  | .ldVxDt x => .of_eq fun s => exec_ldVxDt s x
  | .ldVxK x => ignoresST_ldVxK x
  | .ldDtVx x => .of_eq fun s => exec_ldDtVx s x
  | .ldStVx x => absurd rfl (hi x)
  | .addI x => .of_eq fun s => exec_addI s x
  | .ldF x => .of_eq fun s => exec_ldF s x
  | .ldB x => ignoresST_ldB x
  | .dump x => ignoresST_dump x
  | .load x => ignoresST_load x

/-- Settles O48: `LD ST,Vx` overwrites `ST`, every other instruction ignores it. -/
theorem noInstructionReadsST : Obligations.NoInstructionReadsST := fun i s t v ht => by
  refine ⟨?_, fun hi => ignoresST hi s t v ht⟩
  rintro ⟨x, rfl⟩
  exact (exec_ldStVx (s.withST v) x).trans ((exec_ldStVx s x).symm.trans ht)

end Sys2Proof.Machine
end
